-- ==== Sys2Proof/Word.lean ====
section
/-! DEFINITION. The widths of the hardware's values (00_scope.md R6, R12): bytes, 16-bit words, 12-bit address
immediates, and the numbers 0..15 that select a register, a key or a count. All values are unsigned. -/

namespace Sys2Proof

/-- A general register, a timer or a byte of memory: 8 bits (R6, `XLEN`). -/
abbrev Byte := BitVec 8

/-- `I`, `pc`, a stack entry or an instruction word: 16 bits (R6, `ILEN`; R70). -/
abbrev Word := BitVec 16

/-- The immediate `NNN`, a 12-bit absolute address (R71). -/
abbrev Addr := BitVec 12

/-- The number of a general register, 0..15 (R20). -/
abbrev Reg := Fin 16

/-- The immediate `N`, a count of sprite rows 0..15 (R71). -/
abbrev Rows := Fin 16

/-- A key code, 0..15 (R30). -/
abbrev KeyCode := Fin 16

/-- The number of `VF`, the flag register (R21). -/
abbrev flagReg : Reg := 15

end Sys2Proof
end

