-- ==== Sys2Proof/Syntax.lean ====
section
/-! DEFINITION. The 34 instructions (30_encoding.md R76), one constructor for each row of spec/opcode_table.json, in
the table's order. The field `Y` of the two shifts is kept although it has no effect (R75), so that an instruction
determines its word. -/

namespace Sys2Proof

inductive Instr
  /-- `00E0` CLS (R140). -/
  | cls
  /-- `00EE` RET (R100). -/
  | ret
  /-- `1NNN` JP NNN (R101). -/
  | jp (nnn : Addr)
  /-- `2NNN` CALL NNN (R102). -/
  | call (nnn : Addr)
  /-- `3XNN` SE Vx, NN (R104). -/
  | seImm (x : Reg) (nn : Byte)
  /-- `4XNN` SNE Vx, NN (R105). -/
  | sneImm (x : Reg) (nn : Byte)
  /-- `5XY0` SE Vx, Vy (R106). -/
  | seReg (x y : Reg)
  /-- `6XNN` LD Vx, NN (R110). -/
  | ldImm (x : Reg) (nn : Byte)
  /-- `7XNN` ADD Vx, NN (R111). -/
  | addImm (x : Reg) (nn : Byte)
  /-- `8XY0` LD Vx, Vy (R112). -/
  | ldReg (x y : Reg)
  /-- `8XY1` OR Vx, Vy (R113). -/
  | orReg (x y : Reg)
  /-- `8XY2` AND Vx, Vy (R114). -/
  | andReg (x y : Reg)
  /-- `8XY3` XOR Vx, Vy (R115). -/
  | xorReg (x y : Reg)
  /-- `8XY4` ADD Vx, Vy (R116). -/
  | addReg (x y : Reg)
  /-- `8XY5` SUB Vx, Vy (R117). -/
  | subReg (x y : Reg)
  /-- `8XY6` SHR Vx (R118); `y` is decoded but unused (R75). -/
  | shr (x y : Reg)
  /-- `8XY7` SUBN Vx, Vy (R119). -/
  | subnReg (x y : Reg)
  /-- `8XYE` SHL Vx (R120); `y` is decoded but unused (R75). -/
  | shl (x y : Reg)
  /-- `9XY0` SNE Vx, Vy (R107). -/
  | sneReg (x y : Reg)
  /-- `ANNN` LD I, NNN (R130). -/
  | ldI (nnn : Addr)
  /-- `BNNN` JP V0, NNN (R103). -/
  | jpV0 (nnn : Addr)
  /-- `CXNN` RND Vx, NN (R156). -/
  | rnd (x : Reg) (nn : Byte)
  /-- `DXYN` DRW Vx, Vy, N (R141). -/
  | drw (x y : Reg) (n : Rows)
  /-- `EX9E` SKP Vx (R153). -/
  | skp (x : Reg)
  /-- `EXA1` SKNP Vx (R154). -/
  | sknp (x : Reg)
  /-- `FX07` LD Vx, DT (R150). -/
  | ldVxDT (x : Reg)
  /-- `FX0A` LD Vx, K (R155). -/
  | ldVxK (x : Reg)
  /-- `FX15` LD DT, Vx (R151). -/
  | ldDTVx (x : Reg)
  /-- `FX18` LD ST, Vx (R152). -/
  | ldSTVx (x : Reg)
  /-- `FX1E` ADD I, Vx (R131). -/
  | addI (x : Reg)
  /-- `FX29` LD F, Vx (R132). -/
  | ldF (x : Reg)
  /-- `FX33` LD B, Vx (R133). -/
  | ldB (x : Reg)
  /-- `FX55` LD [I], Vx (R134). -/
  | storeRegs (x : Reg)
  /-- `FX65` LD Vx, [I] (R135). -/
  | loadRegs (x : Reg)
deriving DecidableEq, Repr

end Sys2Proof
end

