-- ==== Sys2Proof/WellFormed.lean ====
section
/-! DEFINITION. When an operand fits the field that carries it (30_encoding.md R71, R73). The operands of `Instr`
are in range by their types; the check is stated on operands as plain numbers, the way a listing writes them (R80),
and an instruction is well formed when every operand it shows passes. -/

namespace Sys2Proof

/-- An operand as a number in a listing, with the field it is meant for (R71). -/
inductive Operand
  /-- `Vx` or `Vy`, by number. -/
  | reg (n : Nat)
  /-- `NN`. -/
  | imm8 (n : Nat)
  /-- `NNN`. -/
  | addr12 (n : Nat)
  /-- `N`. -/
  | imm4 (n : Nat)
deriving DecidableEq, Repr

/-- The operand fits its field: `V0..VF`, `NN` in 0..255, `NNN` in 0..4095, `N` in 0..15 (R73). -/
def Operand.wellFormed : Operand → Bool
  | .reg n => n < 16
  | .imm8 n => n < 256
  | .addr12 n => n < 4096
  | .imm4 n => n < 16

/-- The operands of an instruction in the order of its fields (R72, R76). -/
def Instr.operands : Instr → List Operand
  | .cls => []
  | .ret => []
  | .jp nnn => [.addr12 nnn.toNat]
  | .call nnn => [.addr12 nnn.toNat]
  | .seImm x nn => [.reg x, .imm8 nn.toNat]
  | .sneImm x nn => [.reg x, .imm8 nn.toNat]
  | .seReg x y => [.reg x, .reg y]
  | .ldImm x nn => [.reg x, .imm8 nn.toNat]
  | .addImm x nn => [.reg x, .imm8 nn.toNat]
  | .ldReg x y => [.reg x, .reg y]
  | .orReg x y => [.reg x, .reg y]
  | .andReg x y => [.reg x, .reg y]
  | .xorReg x y => [.reg x, .reg y]
  | .addReg x y => [.reg x, .reg y]
  | .subReg x y => [.reg x, .reg y]
  | .shr x y => [.reg x, .reg y]
  | .subnReg x y => [.reg x, .reg y]
  | .shl x y => [.reg x, .reg y]
  | .sneReg x y => [.reg x, .reg y]
  | .ldI nnn => [.addr12 nnn.toNat]
  | .jpV0 nnn => [.addr12 nnn.toNat]
  | .rnd x nn => [.reg x, .imm8 nn.toNat]
  | .drw x y n => [.reg x, .reg y, .imm4 n]
  | .skp x => [.reg x]
  | .sknp x => [.reg x]
  | .ldVxDT x => [.reg x]
  | .ldVxK x => [.reg x]
  | .ldDTVx x => [.reg x]
  | .ldSTVx x => [.reg x]
  | .addI x => [.reg x]
  | .ldF x => [.reg x]
  | .ldB x => [.reg x]
  | .storeRegs x => [.reg x]
  | .loadRegs x => [.reg x]

/-- Every operand fits its field. -/
def Instr.wellFormed (i : Instr) : Bool := i.operands.all Operand.wellFormed

end Sys2Proof
end

