-- ==== Sys2Proof/Decode.lean ====
section
/-! DEFINITION. Decoding (30_encoding.md R70 to R77), total on words and on bytes, and the encoder. The opcode table
of R76 stands at the end as data (mask, match, mnemonic). Every bit pattern is the spec's decision D1 (log
entry 20). -/

namespace Sys2Proof

/-! ## Fields of a word (R71) -/

/-- A 4-bit field as a number 0..15. -/
def nibbleOf (b : BitVec 4) : Fin 16 := ⟨b.toNat, b.isLt⟩

/-- A number 0..15 as a 4-bit field. -/
def nibbleBits (n : Fin 16) : BitVec 4 := BitVec.ofNat 4 n.val

/-- `C = op[15:12]`, the class. -/
def cOf (op : Word) : Fin 16 := nibbleOf (op.extractLsb' 12 4)

/-- `X = op[11:8]`. -/
def xOf (op : Word) : Fin 16 := nibbleOf (op.extractLsb' 8 4)

/-- `Y = op[7:4]`. -/
def yOf (op : Word) : Fin 16 := nibbleOf (op.extractLsb' 4 4)

/-- `N = op[3:0]`. -/
def nOf (op : Word) : Fin 16 := nibbleOf (op.extractLsb' 0 4)

/-- `NN = op[7:0]`. -/
def nnOf (op : Word) : Byte := op.extractLsb' 0 8

/-- `NNN = op[11:0]`. -/
def nnnOf (op : Word) : Addr := op.extractLsb' 0 12

/-! ## Decoding (R74) -/

/-- Why bytes are no instruction: a row of the table of R77, or fewer than two bytes. The names are the model's
(log entry 21, DESIGN CHOICE). -/
inductive Reject
  /-- Fewer than two bytes are left (R70). -/
  | tooShort
  /-- Class 0, neither `00E0` nor `00EE`. -/
  | unknownClass0
  /-- Class 5 with a low nibble other than 0. -/
  | unknownClass5
  /-- Class 8 with a low nibble 8..D or F. -/
  | unknownClass8
  /-- Class 9 with a low nibble other than 0. -/
  | unknownClass9
  /-- Class E with a low byte other than 9E, A1. -/
  | unknownClassE
  /-- Class F with a low byte outside the nine listed. -/
  | unknownClassF
deriving DecidableEq, Repr

/-- Class 8: `N` selects (R74 step 5). -/
def decodeClass8 (op : Word) : Except Reject Instr :=
  match (nOf op).val with
  | 0x0 => .ok (.ldReg (xOf op) (yOf op))
  | 0x1 => .ok (.orReg (xOf op) (yOf op))
  | 0x2 => .ok (.andReg (xOf op) (yOf op))
  | 0x3 => .ok (.xorReg (xOf op) (yOf op))
  | 0x4 => .ok (.addReg (xOf op) (yOf op))
  | 0x5 => .ok (.subReg (xOf op) (yOf op))
  | 0x6 => .ok (.shr (xOf op) (yOf op))
  | 0x7 => .ok (.subnReg (xOf op) (yOf op))
  | 0xE => .ok (.shl (xOf op) (yOf op))
  | _ => .error .unknownClass8

/-- Class E: `NN` selects (R74 step 6). -/
def decodeClassE (op : Word) : Except Reject Instr :=
  match (nnOf op).toNat with
  | 0x9E => .ok (.skp (xOf op))
  | 0xA1 => .ok (.sknp (xOf op))
  | _ => .error .unknownClassE

/-- Class F: `NN` selects (R74 step 7). -/
def decodeClassF (op : Word) : Except Reject Instr :=
  match (nnOf op).toNat with
  | 0x07 => .ok (.ldVxDT (xOf op))
  | 0x0A => .ok (.ldVxK (xOf op))
  | 0x15 => .ok (.ldDTVx (xOf op))
  | 0x18 => .ok (.ldSTVx (xOf op))
  | 0x1E => .ok (.addI (xOf op))
  | 0x29 => .ok (.ldF (xOf op))
  | 0x33 => .ok (.ldB (xOf op))
  | 0x55 => .ok (.storeRegs (xOf op))
  | 0x65 => .ok (.loadRegs (xOf op))
  | _ => .error .unknownClassF

/-- The decode algorithm of R74 on one word. -/
def decodeWord (op : Word) : Except Reject Instr :=
  match (cOf op).val with
  | 0x0 => if op = 0x00E0 then .ok .cls else if op = 0x00EE then .ok .ret else .error .unknownClass0
  | 0x1 => .ok (.jp (nnnOf op))
  | 0x2 => .ok (.call (nnnOf op))
  | 0x3 => .ok (.seImm (xOf op) (nnOf op))
  | 0x4 => .ok (.sneImm (xOf op) (nnOf op))
  | 0x5 => if nOf op = 0 then .ok (.seReg (xOf op) (yOf op)) else .error .unknownClass5
  | 0x6 => .ok (.ldImm (xOf op) (nnOf op))
  | 0x7 => .ok (.addImm (xOf op) (nnOf op))
  | 0x8 => decodeClass8 op
  | 0x9 => if nOf op = 0 then .ok (.sneReg (xOf op) (yOf op)) else .error .unknownClass9
  | 0xA => .ok (.ldI (nnnOf op))
  | 0xB => .ok (.jpV0 (nnnOf op))
  | 0xC => .ok (.rnd (xOf op) (nnOf op))
  | 0xD => .ok (.drw (xOf op) (yOf op) (nOf op))
  | 0xE => decodeClassE op
  | _ => decodeClassF op

/-- The word of two bytes, the byte at the lower address in bits 15:8 (R53). -/
def wordOfBytes (hi lo : Byte) : Word := hi ++ lo

/-- The two bytes of a word in memory order (R53, R70). -/
def bytesOfWord (op : Word) : List Byte := [op.extractLsb' 8 8, op.extractLsb' 0 8]

/-- The instruction at the head of a list of bytes, with the bytes after it. -/
def decodeBytes : List Byte → Except Reject (Instr × List Byte)
  | hi :: lo :: rest =>
    match decodeWord (wordOfBytes hi lo) with
    | .ok i => .ok (i, rest)
    | .error e => .error e
  | _ => .error .tooShort

/-- The instruction the decoder reads from a word numbered as spec/opcode_table.json numbers its bits: its `nbits` low bits, laid
out in memory order. -/
def decodeTableWord (nbits w : Nat) : Option Instr :=
  match decodeBytes (bytesOfWord (BitVec.ofNat 16 (w % 2 ^ nbits))) with
  | .ok (i, _) => some i
  | .error _ => none

/-! ## Encoding: the six formats of R72 -/

/-- Format `ADDR`. -/
def fmtAddr (c : BitVec 4) (nnn : Addr) : Word := c ++ nnn

/-- Formats `REG_IMM` and `REG_SUB`. -/
def fmtRegImm (c : BitVec 4) (x : Reg) (nn : Byte) : Word := (c ++ nibbleBits x) ++ nn

/-- Formats `REG_REG` and `REG_REG_N`. -/
def fmtRegReg (c : BitVec 4) (x y : Reg) (n : Fin 16) : Word :=
  ((c ++ nibbleBits x) ++ nibbleBits y) ++ nibbleBits n

/-- The word of an instruction (R76). -/
def encode : Instr → Word
  | .cls => 0x00E0
  | .ret => 0x00EE
  | .jp nnn => fmtAddr 0x1 nnn
  | .call nnn => fmtAddr 0x2 nnn
  | .seImm x nn => fmtRegImm 0x3 x nn
  | .sneImm x nn => fmtRegImm 0x4 x nn
  | .seReg x y => fmtRegReg 0x5 x y 0x0
  | .ldImm x nn => fmtRegImm 0x6 x nn
  | .addImm x nn => fmtRegImm 0x7 x nn
  | .ldReg x y => fmtRegReg 0x8 x y 0x0
  | .orReg x y => fmtRegReg 0x8 x y 0x1
  | .andReg x y => fmtRegReg 0x8 x y 0x2
  | .xorReg x y => fmtRegReg 0x8 x y 0x3
  | .addReg x y => fmtRegReg 0x8 x y 0x4
  | .subReg x y => fmtRegReg 0x8 x y 0x5
  | .shr x y => fmtRegReg 0x8 x y 0x6
  | .subnReg x y => fmtRegReg 0x8 x y 0x7
  | .shl x y => fmtRegReg 0x8 x y 0xE
  | .sneReg x y => fmtRegReg 0x9 x y 0x0
  | .ldI nnn => fmtAddr 0xA nnn
  | .jpV0 nnn => fmtAddr 0xB nnn
  | .rnd x nn => fmtRegImm 0xC x nn
  | .drw x y n => fmtRegReg 0xD x y n
  | .skp x => fmtRegImm 0xE x 0x9E
  | .sknp x => fmtRegImm 0xE x 0xA1
  | .ldVxDT x => fmtRegImm 0xF x 0x07
  | .ldVxK x => fmtRegImm 0xF x 0x0A
  | .ldDTVx x => fmtRegImm 0xF x 0x15
  | .ldSTVx x => fmtRegImm 0xF x 0x18
  | .addI x => fmtRegImm 0xF x 0x1E
  | .ldF x => fmtRegImm 0xF x 0x29
  | .ldB x => fmtRegImm 0xF x 0x33
  | .storeRegs x => fmtRegImm 0xF x 0x55
  | .loadRegs x => fmtRegImm 0xF x 0x65

/-- The bytes of an instruction in memory order (R70). -/
def encodeBytes (i : Instr) : List Byte := bytesOfWord (encode i)

/-! ## The opcode table as data (R76) -/

/-- A row of R76: `op &&& mask = pat` selects it. -/
structure OpcodeRow where
  mask : Word
  pat : Word
  mnemonic : String
deriving DecidableEq, Repr

/-- The row of an instruction. -/
def rowOf : Instr → OpcodeRow
  | .cls => ⟨0xFFFF, 0x00E0, "CLS"⟩
  | .ret => ⟨0xFFFF, 0x00EE, "RET"⟩
  | .jp _ => ⟨0xF000, 0x1000, "JP NNN"⟩
  | .call _ => ⟨0xF000, 0x2000, "CALL NNN"⟩
  | .seImm _ _ => ⟨0xF000, 0x3000, "SE Vx, NN"⟩
  | .sneImm _ _ => ⟨0xF000, 0x4000, "SNE Vx, NN"⟩
  | .seReg _ _ => ⟨0xF00F, 0x5000, "SE Vx, Vy"⟩
  | .ldImm _ _ => ⟨0xF000, 0x6000, "LD Vx, NN"⟩
  | .addImm _ _ => ⟨0xF000, 0x7000, "ADD Vx, NN"⟩
  | .ldReg _ _ => ⟨0xF00F, 0x8000, "LD Vx, Vy"⟩
  | .orReg _ _ => ⟨0xF00F, 0x8001, "OR Vx, Vy"⟩
  | .andReg _ _ => ⟨0xF00F, 0x8002, "AND Vx, Vy"⟩
  | .xorReg _ _ => ⟨0xF00F, 0x8003, "XOR Vx, Vy"⟩
  | .addReg _ _ => ⟨0xF00F, 0x8004, "ADD Vx, Vy"⟩
  | .subReg _ _ => ⟨0xF00F, 0x8005, "SUB Vx, Vy"⟩
  | .shr _ _ => ⟨0xF00F, 0x8006, "SHR Vx"⟩
  | .subnReg _ _ => ⟨0xF00F, 0x8007, "SUBN Vx, Vy"⟩
  | .shl _ _ => ⟨0xF00F, 0x800E, "SHL Vx"⟩
  | .sneReg _ _ => ⟨0xF00F, 0x9000, "SNE Vx, Vy"⟩
  | .ldI _ => ⟨0xF000, 0xA000, "LD I, NNN"⟩
  | .jpV0 _ => ⟨0xF000, 0xB000, "JP V0, NNN"⟩
  | .rnd _ _ => ⟨0xF000, 0xC000, "RND Vx, NN"⟩
  | .drw _ _ _ => ⟨0xF000, 0xD000, "DRW Vx, Vy, N"⟩
  | .skp _ => ⟨0xF0FF, 0xE09E, "SKP Vx"⟩
  | .sknp _ => ⟨0xF0FF, 0xE0A1, "SKNP Vx"⟩
  | .ldVxDT _ => ⟨0xF0FF, 0xF007, "LD Vx, DT"⟩
  | .ldVxK _ => ⟨0xF0FF, 0xF00A, "LD Vx, K"⟩
  | .ldDTVx _ => ⟨0xF0FF, 0xF015, "LD DT, Vx"⟩
  | .ldSTVx _ => ⟨0xF0FF, 0xF018, "LD ST, Vx"⟩
  | .addI _ => ⟨0xF0FF, 0xF01E, "ADD I, Vx"⟩
  | .ldF _ => ⟨0xF0FF, 0xF029, "LD F, Vx"⟩
  | .ldB _ => ⟨0xF0FF, 0xF033, "LD B, Vx"⟩
  | .storeRegs _ => ⟨0xF0FF, 0xF055, "LD [I], Vx"⟩
  | .loadRegs _ => ⟨0xF0FF, 0xF065, "LD Vx, [I]"⟩

/-- One instruction of each row, in the table's order. -/
def oneOfEachRow : List Instr :=
  [.cls, .ret, .jp 0, .call 0, .seImm 0 0, .sneImm 0 0, .seReg 0 0, .ldImm 0 0, .addImm 0 0, .ldReg 0 0,
   .orReg 0 0, .andReg 0 0, .xorReg 0 0, .addReg 0 0, .subReg 0 0, .shr 0 0, .subnReg 0 0, .shl 0 0,
   .sneReg 0 0, .ldI 0, .jpV0 0, .rnd 0 0, .drw 0 0 0, .skp 0, .sknp 0, .ldVxDT 0, .ldVxK 0, .ldDTVx 0,
   .ldSTVx 0, .addI 0, .ldF 0, .ldB 0, .storeRegs 0, .loadRegs 0]

/-- The 34 rows of R76. -/
def opcodeTable : List OpcodeRow := oneOfEachRow.map rowOf

end Sys2Proof
end

