-- ==== Sys2Proof/Config.lean ====
section
/-! DEFINITION. What is fixed for one machine (00_scope.md R7): the open parameters `UNKNOWN_POLICY`, `FONT` and
`LOAD_MAX`, and the free values of the model (constants without a body). -/

namespace Sys2Proof

/-- `UNKNOWN_POLICY` (R7, R97): what an unknown encoding does. -/
inductive UnknownPolicy
  | lenient
  | strict
deriving DecidableEq, Repr, Inhabited

/-- `FONT` (R7, R57): the 80 glyph bytes that `Reset` installs at `0x000..0x04F`. -/
abbrev Font := Vector Byte 80

/-- The parameters of one machine. Nothing that runs on it writes them (log entry 1, DEDUCED). -/
structure Config where
  /-- `UNKNOWN_POLICY`. -/
  unknownPolicy : UnknownPolicy
  /-- `FONT`. -/
  font : Font
  /-- `LOAD_MAX`: the largest image `Load` takes whole. No larger than the 3584 bytes of `0x200..0xFFF`
  (90_conflicts.md C7; log entry 4, DEDUCED). -/
  loadMax : Fin 3585
deriving DecidableEq, Repr

/-- FREE VALUE (log entry 2): the policy of the machine that `State.reset` describes. The spec leaves it open and
gives no default (R7, D5). -/
opaque Config.openPolicy : UnknownPolicy

/-- FREE VALUE (log entry 5): the byte of the n-th draw that no input list has fixed (R156: any value, no law). -/
opaque Config.rndByte : Nat → Byte

/-- The default `FONT` (R57, PRESUMED by the spec itself: its passage G6; log entry 3). -/
def Config.defaultFont : Font :=
  #v[0xF0, 0x90, 0x90, 0x90, 0xF0,
     0x20, 0x60, 0x20, 0x20, 0x70,
     0xF0, 0x10, 0xF0, 0x80, 0xF0,
     0xF0, 0x10, 0xF0, 0x10, 0xF0,
     0x90, 0x90, 0xF0, 0x10, 0x10,
     0xF0, 0x80, 0xF0, 0x10, 0xF0,
     0xF0, 0x80, 0xF0, 0x90, 0xF0,
     0xF0, 0x10, 0x20, 0x40, 0x40,
     0xF0, 0x90, 0xF0, 0x90, 0xF0,
     0xF0, 0x90, 0xF0, 0x10, 0xF0,
     0xF0, 0x90, 0xF0, 0x90, 0x90,
     0xE0, 0x90, 0xE0, 0x90, 0xE0,
     0xF0, 0x80, 0x80, 0x80, 0xF0,
     0xE0, 0x90, 0x90, 0x90, 0xE0,
     0xF0, 0x80, 0xF0, 0x80, 0xF0,
     0xF0, 0x80, 0xF0, 0x80, 0x80]

/-- The default `LOAD_MAX`, `0xFFF - 0x200` (R7, R193; 90_conflicts.md C7; log entry 4). -/
def Config.defaultLoadMax : Fin 3585 := ⟨0xFFF - 0x200, by decide⟩

/-- The parameters that `State.reset` carries: the spec's defaults, and the open policy left free. -/
def Config.default : Config where
  unknownPolicy := Config.openPolicy
  font := Config.defaultFont
  loadMax := Config.defaultLoadMax

end Sys2Proof
end

