-- ==== Sys2Proof/Machine/State.lean ====
section
/-! DEFINITION. The machine's state as plain data (10_state.md), its value after `Reset` (R42), and the reasons a step
can stop. -/

namespace Sys2Proof.Machine

/-- Memory: the listed bytes, in the canonical form of `Memory.wf` (Machine/Ops.lean). -/
abbrev Memory := List Host.Cell

/-- `disp[y][x]`: 32 rows of 64 one-bit pixels, row 0 at the top, column 0 at the left; `true` is lit (R29). -/
abbrev Display := Vector (Vector Bool 64) 32

/-- `mode` (R31): whether the core executes or waits for a key. -/
inductive Mode
  /-- `Running`. -/
  | running
  /-- `WaitingForKey(x)`: parked by `FX0A` until a key press; `V[x]` receives its code. -/
  | waitingForKey (x : Reg)
deriving DecidableEq, Repr

/-- The eight kinds of fault the hardware latches, in the order of their codes 1 to 8 (R160). -/
inductive FaultKind
  /-- An unknown encoding under `Strict`. -/
  | unknownOpcode
  /-- `2NNN` with `sp = 16`. -/
  | stackOverflow
  /-- `00EE` with `sp = 0`. -/
  | stackUnderflow
  /-- `DXYN`, `FX33`, `FX55`, `FX65` whose highest address is above `0xFFF`. -/
  | memOutOfRange
  /-- `FX1E` whose sum is above `0xFFF`. -/
  | indexOutOfRange
  /-- A candidate `pc` above `0xFFE`. -/
  | pcOutOfRange
  /-- An odd candidate `pc` that is in range. -/
  | pcMisaligned
  /-- `EX9E`, `EXA1` with `V[X]` above 15. -/
  | keyIndexOutOfRange
deriving DecidableEq, Repr

/-- What `fault` holds (R33): the kind, the address of the faulting instruction and its word. -/
structure FaultRecord where
  kind : FaultKind
  atPc : Word
  op : Word
deriving DecidableEq, Repr

/-- The events of the three agents (R8). -/
inductive Event
  /-- `Step`, the core's event (R90). -/
  | step
  /-- `TimerTick`, the timer engine's event (R172). -/
  | timerTick
  /-- `KeySet(code, pressed)`, a host event (R175); a code above 15 is refused. -/
  | keySet (code : Nat) (pressed : Bool)
  /-- `Reset(SEED)`, a host event (R190); the seed has no modelled effect (D18). -/
  | reset (seed : Nat)
  /-- `Load(image)`, a host event (R193). -/
  | load (image : List Byte)
deriving DecidableEq, Repr

/-- What the hardware tells the host beside its registers: output events, not state (R39, R193). -/
inductive Output
  /-- `diag(UnknownOpcode, pc, op)` (R97). -/
  | diagUnknownOpcode (pc op : Word)
  /-- The report that an image of this many bytes was truncated by `Load` (R193). -/
  | loadTruncated (length : Nat)
deriving DecidableEq, Repr

/-- The world around the machine: the MODEL's own fields, none of them state of the spec. -/
structure Env where
  /-- The events that come next, in order; when it is empty, the next event is `Step` (log entry 6). -/
  schedule : List Event
  /-- The bytes that the port `rnd` shows to the next `CXNN`s (R180; log entry 5). -/
  rndIn : List Byte
  /-- How many draws were taken with `rndIn` empty; such a draw is the free value `Config.rndByte` (log entry 5). -/
  draws : Nat
  /-- The output events so far, oldest first (log entry 7). -/
  outputs : List Output
deriving DecidableEq, Repr

/-- The state of the machine (10_state.md). -/
structure State where
  /-- `V0..VF` (R20); `V[15]` is `VF`, the flag register (R21). -/
  v : Vector Byte 16
  /-- `I`, the index register (R24). -/
  i : Word
  /-- `pc`: the address of the next instruction to fetch; while parked, of the `FX0A` (R25). -/
  pc : Word
  /-- `stack[0..15]` (R26). -/
  stack : Vector Word 16
  /-- `sp`: how many return addresses are held, 0..16 (R26; log entry 10). -/
  sp : Fin 17
  /-- `DT`, the delay timer (R27). -/
  dt : Byte
  /-- `ST`, the sound timer (R27). -/
  st : Byte
  /-- `mem[0x000..0xFFF]` (R28, R50). -/
  mem : Memory
  /-- `disp[y][x]` (R29). -/
  disp : Display
  /-- `keys[0..15]`, true is pressed (R30). -/
  keys : Vector Bool 16
  /-- `mode` (R31). -/
  mode : Mode
  /-- `key_latch` (R32): `some c` is valid with code `c`, `none` is not valid (log entry 9). -/
  keyLatch : Option KeyCode
  /-- `fault` (R33). -/
  fault : Option FaultRecord
  /-- `disp_changed` (R38). -/
  dispChanged : Bool
  /-- Whether a `Load` would be legal now: since the last `Reset` no `Step` and no `Load` has occurred (R194; log entry 8). -/
  loadable : Bool
  /-- The parameters of this machine (R7), which nothing writes (log entry 1). -/
  cfg : Config
  /-- The world around the machine (log entries 5, 6, 7). -/
  env : Env
deriving DecidableEq, Repr

/-- Reasons for which a step of the MODEL would stop with a fault: there are none. Every fault of the spec is a
state the hardware goes on in (latched and halted, R161, R163), so it is a next state of the model, and it is a
`FaultKind` (log entry 11, safe). -/
inductive Fault
deriving DecidableEq, Repr

/-- Reasons for which the model has no transition. -/
inductive Refusal
  /-- An instruction without a meaning; raised by no arm of `exec` now; safe. -/
  | notModelled (mnemonic : String)
  /-- Raised by the event `Load` at a time at which it is not legal (R194: "a model refuses it"); safe. -/
  | loadNotLegal
  /-- Raised by the event `KeySet` with a code above 15 (R175: "a model refuses it"); safe. -/
  | noSuchKey
deriving DecidableEq, Repr

/-- Nothing is pending around the machine (DESIGN CHOICE, log entries 5, 6, 7). -/
def Env.quiet : Env where
  schedule := []
  rndIn := []
  draws := 0
  outputs := []

/-- The state that `Reset` leaves (R42, R190, R191) on a machine with parameters `cfg` in the world `env`. Memory lists
nothing: an unlisted address reads as `Reset` leaves it (`Memory.unlisted`). -/
def State.resetWith (cfg : Config) (env : Env) : State where
  v := Vector.replicate 16 0
  i := 0
  pc := 0x200
  stack := Vector.replicate 16 0
  sp := 0
  dt := 0
  st := 0
  mem := []
  disp := Vector.replicate 32 (Vector.replicate 64 false)
  keys := Vector.replicate 16 false
  mode := .running
  keyLatch := none
  fault := none
  dispChanged := false
  loadable := true
  cfg := cfg
  env := env

/-- The machine right after reset. -/
def State.reset : State := State.resetWith Config.default Env.quiet

end Sys2Proof.Machine
end

