-- ==== Sys2Proof/Machine/Ops.lean ====
section
/-! DEFINITION. The named operations every meaning is built from: memory (20_memory.md), the registers, the call
stack, the display, `CheckPc`, taking a fault (60_exceptions.md R161) and completing an instruction
(40_step_dispatch.md R93 to R95). There is no return from a fault (R167): only the event `Reset` leaves the halt. -/

namespace Sys2Proof.Machine

/-! ## Memory as a list -/

/-- How many bytes of memory there are: addresses `0x000..0xFFF` (R50). -/
def memSize : Nat := 4096

/-- What an address that memory does not list reads as: its reset contents, the font below `0x050` and `0x00` above
(R191; log entry 15). -/
def Memory.unlisted (font : Font) (a : Nat) : Byte := if h : a < 80 then font[a] else 0

/-- The byte listed at an address. -/
def Memory.lookup : Memory → Nat → Option Byte
  | [], _ => none
  | (k, b) :: rest, a => if k = a then some b else Memory.lookup rest a

/-- The byte at an address. -/
def Memory.read (font : Font) (m : Memory) (a : Nat) : Byte := (Memory.lookup m a).getD (Memory.unlisted font a)

/-- List a byte at an address, in place of an older one. -/
def Memory.insert : Memory → Nat → Byte → Memory
  | [], a, b => [(a, b)]
  | (k, c) :: rest, a, b =>
    if a < k then (a, b) :: (k, c) :: rest
    else if k = a then (a, b) :: rest
    else (k, c) :: Memory.insert rest a b

/-- List nothing at an address. -/
def Memory.erase (m : Memory) (a : Nat) : Memory := m.filter fun c => c.1 != a

/-- Write a byte, keeping the canonical form: a byte that an unlisted address reads as is not listed. -/
def Memory.write (font : Font) (m : Memory) (a : Nat) (b : Byte) : Memory :=
  if b = Memory.unlisted font a then Memory.erase m a else Memory.insert m a b

/-- Write bytes at ascending addresses (R58). -/
def Memory.writeList (font : Font) (m : Memory) (a : Nat) : List Byte → Memory
  | [] => m
  | b :: rest => Memory.writeList font (Memory.write font m a b) (a + 1) rest

/-- The canonical form: addresses strictly rising and inside memory, no entry that reads as if it were unlisted. -/
def Memory.wf (font : Font) (m : Memory) : Bool :=
  decide (m.Pairwise fun c d => c.1 < d.1) && m.all fun c => decide (c.1 < memSize) && c.2 != Memory.unlisted font c.1

/-! ## Memory of the machine -/

/-- `MemRead(a, 1)` for an address that has passed its check (R52). -/
def State.memRead (s : State) (a : Nat) : Byte := Memory.read s.cfg.font s.mem a

/-- The bytes at `a, ..., a + n - 1`. -/
def State.memReadList (s : State) (a n : Nat) : List Byte := (List.range n).map fun k => s.memRead (a + k)

/-- `MemRead(a, 2)`, big-endian (R53). -/
def State.memReadWord (s : State) (a : Nat) : Word := wordOfBytes (s.memRead a) (s.memRead (a + 1))

/-- `MemWrite(a + k, 1, bs[k])` for every `k`, ascending, for addresses that have passed their check (R52, R58). -/
def State.memWriteList (s : State) (a : Nat) (bs : List Byte) : State :=
  { s with mem := Memory.writeList s.cfg.font s.mem a bs }

/-- `MemRead` and `MemWrite` raise `MemOutOfRange` above `0xFFF` (R52); an instruction checks its highest address. -/
def memFits (top : Nat) : Bool := top ≤ 0xFFF

/-! ## Registers -/

/-- `V[x]` (R14). -/
def State.readV (s : State) (x : Reg) : Byte := s.v[x]

/-- `V[x] <- b` (R14). No register is hardwired (R20). -/
def State.writeV (s : State) (x : Reg) (b : Byte) : State := { s with v := s.v.set x b }

/-- `V[k] <- f k` for `k` in `0..x`; registers above `x` keep their values (R135). -/
def State.writeVUpTo (s : State) (x : Reg) (f : Nat → Byte) : State :=
  { s with v := Vector.ofFn fun k : Reg => if k ≤ x then f k else s.v[k] }

/-- `I <- w`. -/
def State.writeI (s : State) (w : Word) : State := { s with i := w }

/-- `DT <- b`. -/
def State.writeDT (s : State) (b : Byte) : State := { s with dt := b }

/-- `ST <- b`. -/
def State.writeST (s : State) (b : Byte) : State := { s with st := b }

/-- `disp <- d`. -/
def State.writeDisp (s : State) (d : Display) : State := { s with disp := d }

/-- `keys[c] <- p`. -/
def State.writeKey (s : State) (c : KeyCode) (p : Bool) : State := { s with keys := s.keys.set c p }

/-- `key_latch <- l`. -/
def State.writeLatch (s : State) (l : Option KeyCode) : State := { s with keyLatch := l }

/-- `mode <- WaitingForKey(x); key_latch.valid <- 0` (R155). -/
def State.park (s : State) (x : Reg) : State := { s with mode := .waitingForKey x, keyLatch := none }

/-- `mode <- Running; key_latch.valid <- 0` (R92). -/
def State.unpark (s : State) : State := { s with mode := .running, keyLatch := none }

/-- A `Load` is no longer legal (R194). -/
def State.closeLoad (s : State) : State := { s with loadable := false }

/-- `fault <- None`, as only a `Reset` does on the hardware; used to place a word for the next step (log entry 14). -/
def State.clearFault (s : State) : State := { s with fault := none }

/-- Send an output event to the host (R39). -/
def State.emit (s : State) (o : Output) : State := { s with env := { s.env with outputs := s.env.outputs ++ [o] } }

/-- Forget the first pending event: it is the one that happens now. -/
def State.setSchedule (s : State) (es : List Event) : State := { s with env := { s.env with schedule := es } }

/-- The byte that the port `rnd` shows now (R180). -/
def State.rndByte (s : State) : Byte :=
  match s.env.rndIn with
  | b :: _ => b
  | [] => Config.rndByte s.env.draws

/-- The port `rnd` was sampled: the next sample is a fresh draw (R156). -/
def State.rndTaken (s : State) : State :=
  match s.env.rndIn with
  | _ :: rest => { s with env := { s.env with rndIn := rest } }
  | [] => { s with env := { s.env with draws := s.env.draws + 1 } }

/-! ## The call stack (R26) -/

/-- `stack[sp] <- ret; sp <- sp + 1`. -/
def State.push (s : State) (h : s.sp.val < 16) (ret : Word) : State :=
  { s with stack := s.stack.set s.sp.val ret h, sp := ⟨s.sp.val + 1, Nat.succ_lt_succ h⟩ }

/-- `stack[sp - 1]`. -/
def State.stackTop (s : State) (h : 0 < s.sp.val) : Word :=
  s.stack[s.sp.val - 1]'(Nat.lt_of_lt_of_le (Nat.sub_lt h Nat.one_pos) (Nat.le_of_lt_succ s.sp.isLt))

/-- `sp <- sp - 1`; the popped entry keeps its bits. -/
def State.pop (s : State) : State := { s with sp := ⟨s.sp.val - 1, Nat.lt_of_le_of_lt (Nat.sub_le _ _) s.sp.isLt⟩ }

/-! ## The program counter, faults, completion -/

/-- `CheckPc(t)` for an unbounded natural `t` (R94). -/
def checkPc (t : Nat) : Except FaultKind Word :=
  if 0xFFE < t then .error .pcOutOfRange
  else if t % 2 = 1 then .error .pcMisaligned
  else .ok (BitVec.ofNat 16 t)

/-- TAKING A FAULT: `raise Fault(kind)` by the instruction at `pc` with word `op` (R161). The latch records
`(kind, pc, op)`, `disp_changed` becomes 0 and nothing else changes, the `pc` included (R166). -/
def raise (k : FaultKind) (op : Word) (s : State) : Host.Outcome State Fault Refusal :=
  .next { s with fault := some { kind := k, atPc := s.pc, op := op }, dispChanged := false }

/-- Completing: from `s`, the instruction's writes have given `t`; `pc <- p`, and `disp_changed` says whether a pixel
changed (R93, R38). -/
def retire (s t : State) (p : Word) : Host.Outcome State Fault Refusal :=
  .next { t with pc := p, dispChanged := decide (t.disp ≠ s.disp) }

/-- Instruction `i` at state `s`, whose own checks have passed and whose writes give `t`, ends with
`pc <- CheckPc(target)`; the check comes before the writes (R14), so a fault leaves `s` as it was. -/
def complete (i : Instr) (s t : State) (target : Nat) : Host.Outcome State Fault Refusal :=
  match checkPc target with
  | .error k => raise k (encode i) s
  | .ok p => retire s t p

/-- Ends with `Advance()` (R95). -/
def advance (i : Instr) (s t : State) : Host.Outcome State Fault Refusal := complete i s t (s.pc.toNat + 2)

/-- Ends with `Skip()` if the condition holds, else with `Advance()`, and writes nothing else (R95, R96). -/
def skipIf (cond : Bool) (i : Instr) (s : State) : Host.Outcome State Fault Refusal :=
  complete i s s (if cond then s.pc.toNat + 4 else s.pc.toNat + 2)

end Sys2Proof.Machine
end

