-- ==== Sys2Proof/Machine/Flags.lean ====
section
/-! DEFINITION. The flag computations (10_state.md R21, R22; 42_alu.md R121, R122). The flag is the whole byte `0x00` or
`0x01`, and it is written to `VF` after the result. -/

namespace Sys2Proof.Machine

/-- A flag as the byte that `VF` receives (R21). -/
def flagByte (c : Bool) : Byte := if c then 1 else 0

/-- Carry: 1 iff the unsigned sum exceeds 255 (R121, R116). -/
def carry (a b : Byte) : Byte := flagByte (255 < a.toNat + b.toNat)

/-- Not-borrow of `a - b`: 1 iff `a >= b` as unsigned values (R121, R117, R119). -/
def notBorrow (a b : Byte) : Byte := flagByte (b.toNat ≤ a.toNat)

/-- The bit a right shift by one shifts out: bit 0 (R118). -/
def shiftedOutRight (a : Byte) : Byte := flagByte (a.getLsbD 0)

/-- The bit a left shift by one shifts out: bit 7, as 0 or 1 (R120). -/
def shiftedOutLeft (a : Byte) : Byte := flagByte (a.getLsbD 7)

/-- `V[x] <- r, then VF <- f` (R22): with `x = 15` the flag is what remains. -/
def State.writeVFlag (s : State) (x : Reg) (r f : Byte) : State := (s.writeV x r).writeV flagReg f

end Sys2Proof.Machine
end

