-- ==== Sys2Proof/Machine/Alu.lean ====
section
/-! DEFINITION. Load, arithmetic, logic, shifts (42_alu.md). Every one ends with `Advance()`; right-hand sides are the
values before the instruction. -/

namespace Sys2Proof.Machine

/-- `6XNN` LD Vx, NN (R110). -/
def execLdImm (x : Reg) (nn : Byte) (s : State) : Host.Outcome State Fault Refusal :=
  advance (.ldImm x nn) s (s.writeV x nn)

/-- `7XNN` ADD Vx, NN (R111): no flag. -/
def execAddImm (x : Reg) (nn : Byte) (s : State) : Host.Outcome State Fault Refusal :=
  advance (.addImm x nn) s (s.writeV x (s.readV x + nn))

/-- `8XY0` LD Vx, Vy (R112). -/
def execLdReg (x y : Reg) (s : State) : Host.Outcome State Fault Refusal :=
  advance (.ldReg x y) s (s.writeV x (s.readV y))

/-- `8XY1` OR Vx, Vy (R113): no flag effect. -/
def execOrReg (x y : Reg) (s : State) : Host.Outcome State Fault Refusal :=
  advance (.orReg x y) s (s.writeV x (s.readV x ||| s.readV y))

/-- `8XY2` AND Vx, Vy (R114): no flag effect. -/
def execAndReg (x y : Reg) (s : State) : Host.Outcome State Fault Refusal :=
  advance (.andReg x y) s (s.writeV x (s.readV x &&& s.readV y))

/-- `8XY3` XOR Vx, Vy (R115): no flag effect. -/
def execXorReg (x y : Reg) (s : State) : Host.Outcome State Fault Refusal :=
  advance (.xorReg x y) s (s.writeV x (s.readV x ^^^ s.readV y))

/-- `8XY4` ADD Vx, Vy (R116): `VF` is the carry. -/
def execAddReg (x y : Reg) (s : State) : Host.Outcome State Fault Refusal :=
  advance (.addReg x y) s (s.writeVFlag x (s.readV x + s.readV y) (carry (s.readV x) (s.readV y)))

/-- `8XY5` SUB Vx, Vy (R117): `VF` is the not-borrow of `V[X] - V[Y]`. -/
def execSubReg (x y : Reg) (s : State) : Host.Outcome State Fault Refusal :=
  advance (.subReg x y) s (s.writeVFlag x (s.readV x - s.readV y) (notBorrow (s.readV x) (s.readV y)))

/-- `8XY6` SHR Vx (R118): `V[X]` is shifted in place, `Y` is ignored (R75). -/
def execShr (x y : Reg) (s : State) : Host.Outcome State Fault Refusal :=
  advance (.shr x y) s (s.writeVFlag x (s.readV x >>> 1) (shiftedOutRight (s.readV x)))

/-- `8XY7` SUBN Vx, Vy (R119): `VF` is the not-borrow of `V[Y] - V[X]`. -/
def execSubnReg (x y : Reg) (s : State) : Host.Outcome State Fault Refusal :=
  advance (.subnReg x y) s (s.writeVFlag x (s.readV y - s.readV x) (notBorrow (s.readV y) (s.readV x)))

/-- `8XYE` SHL Vx (R120): `V[X]` is shifted in place, `Y` is ignored (R75). -/
def execShl (x y : Reg) (s : State) : Host.Outcome State Fault Refusal :=
  advance (.shl x y) s (s.writeVFlag x (s.readV x <<< 1) (shiftedOutLeft (s.readV x)))

end Sys2Proof.Machine
end

