-- ==== Sys2Proof/Machine/Operands.lean ====
section
/-! DEFINITION. The operand forms: effective addresses (20_memory.md R51, R52), the block `V[0..X]`, glyph addresses,
decimal digits, key codes, sprite rows. Immediates and registers are read by `Ops`. -/

namespace Sys2Proof.Machine

/-- The effective address `I + k`, an unbounded natural: it never wraps (R51, R52). -/
def State.addr (s : State) (k : Nat) : Nat := s.i.toNat + k

/-- `NNN` widened with zeros to the 16 bits of `I` (R73). -/
def wideAddr (nnn : Addr) : Word := nnn.setWidth 16

/-- `V[0], ..., V[X]` in ascending order (R134). -/
def State.vUpTo (s : State) (x : Reg) : List Byte := s.v.toList.take (x.val + 1)

/-- `FONT_BASE + 5 * b[3:0]` with `FONT_BASE = 0x000` (R132). -/
def glyphAddr (b : Byte) : Word := BitVec.ofNat 16 (5 * (b.toNat % 16))

/-- The decimal digits of a byte: hundreds, tens, ones (R133). -/
def bcdDigits (b : Byte) : List Byte :=
  [BitVec.ofNat 8 (b.toNat / 100), BitVec.ofNat 8 (b.toNat / 10 % 10), BitVec.ofNat 8 (b.toNat % 10)]

/-- The key that a register value selects; none above 15 (R153, D15). -/
def keyOf (b : Byte) : Option KeyCode := if h : b.toNat < 16 then some ⟨b.toNat, h⟩ else none

/-- A key code as a register value, `0x00..0x0F` (R92). -/
def keyByte (c : KeyCode) : Byte := BitVec.ofNat 8 c.val

/-- The `N` bytes of a sprite, from `I` upward (R141). -/
def State.spriteRows (s : State) (n : Rows) : List Byte := s.memReadList (s.addr 0) n.val

end Sys2Proof.Machine
end

