-- ==== Sys2Proof/Machine/ControlFlow.lean ====
section
/-! DEFINITION. Control flow (41_control_flow.md): return, jumps, call, and the skips that compare registers. -/

namespace Sys2Proof.Machine

/-- `00EE` RET (R100). The popped address passed `CheckPc` when it was pushed (R26), so it is not checked again. -/
def execRet (s : State) : Host.Outcome State Fault Refusal :=
  if h : 0 < s.sp.val then retire s s.pop (s.stackTop h) else raise .stackUnderflow (encode .ret) s

/-- `1NNN` JP NNN (R101). -/
def execJp (nnn : Addr) (s : State) : Host.Outcome State Fault Refusal :=
  complete (.jp nnn) s s nnn.toNat

/-- `2NNN` CALL NNN (R102): the checks are the stack, the return address, the target, in this order. -/
def execCall (nnn : Addr) (s : State) : Host.Outcome State Fault Refusal :=
  if h : s.sp.val < 16 then
    match checkPc (s.pc.toNat + 2) with
    | .error k => raise k (encode (.call nnn)) s
    | .ok ret => complete (.call nnn) s (s.push h ret) nnn.toNat
  else raise .stackOverflow (encode (.call nnn)) s

/-- `BNNN` JP V0, NNN (R103): the sum does not wrap. -/
def execJpV0 (nnn : Addr) (s : State) : Host.Outcome State Fault Refusal :=
  complete (.jpV0 nnn) s s (nnn.toNat + (s.readV 0).toNat)

/-- `3XNN` SE Vx, NN (R104). -/
def execSeImm (x : Reg) (nn : Byte) (s : State) : Host.Outcome State Fault Refusal :=
  skipIf (s.readV x == nn) (.seImm x nn) s

/-- `4XNN` SNE Vx, NN (R105). -/
def execSneImm (x : Reg) (nn : Byte) (s : State) : Host.Outcome State Fault Refusal :=
  skipIf (s.readV x != nn) (.sneImm x nn) s

/-- `5XY0` SE Vx, Vy (R106). -/
def execSeReg (x y : Reg) (s : State) : Host.Outcome State Fault Refusal :=
  skipIf (s.readV x == s.readV y) (.seReg x y) s

/-- `9XY0` SNE Vx, Vy (R107). -/
def execSneReg (x y : Reg) (s : State) : Host.Outcome State Fault Refusal :=
  skipIf (s.readV x != s.readV y) (.sneReg x y) s

end Sys2Proof.Machine
end

