-- ==== Sys2Proof/Machine/Drawing.lean ====
section
/-! DEFINITION. Display: clear, and sprite draw with collision (44_display.md). The blitter follows the loops of R141. -/

namespace Sys2Proof.Machine

/-- The display with every pixel unset (R140). -/
def blankDisplay : Display := Vector.replicate 32 (Vector.replicate 64 false)

/-- `disp[y][x]`. -/
def pixel (d : Display) (y : Fin 32) (x : Fin 64) : Bool := d[y][x]

/-- `disp[y][x] <- disp[y][x] ^ 1`. -/
def flipPixel (d : Display) (y : Fin 32) (x : Fin 64) : Display := d.set y (d[y].set x (!pixel d y x))

/-- The row a sprite row lands on: `y mod 32` (R142). -/
def wrapRow (y : Nat) : Fin 32 := ⟨y % 32, Nat.mod_lt _ (by decide)⟩

/-- The column a sprite pixel lands on: `x mod 64` (R142). -/
def wrapColumn (x : Nat) : Fin 64 := ⟨x % 64, Nat.mod_lt _ (by decide)⟩

/-- Pixel `j` of a sprite row `b`: bit `7 - j` (R142). -/
def spriteBit (b : Byte) (j : Nat) : Bool := b.getLsbD (7 - j)

/-- The body of R141's inner loop: pixel `j` of row `b`, whose left edge is at column `x0` of row `yy`. The second
component is the collision `c`. -/
def drawBit (b : Byte) (x0 : Nat) (yy : Fin 32) (acc : Display × Bool) (j : Nat) : Display × Bool :=
  if spriteBit b j then
    (flipPixel acc.1 yy (wrapColumn (x0 + j)), acc.2 || pixel acc.1 yy (wrapColumn (x0 + j)))
  else acc

/-- R141's inner loop: `j` in `0..7`. -/
def drawRow (b : Byte) (x0 : Nat) (yy : Fin 32) (acc : Display × Bool) : Display × Bool :=
  (List.range 8).foldl (drawBit b x0 yy) acc

/-- R141's outer loop: the rows of the sprite, the first at row `y0`. -/
def drawRows (x0 : Nat) : List Byte → Nat → Display × Bool → Display × Bool
  | [], _, acc => acc
  | b :: rest, y0, acc => drawRows x0 rest (y0 + 1) (drawRow b x0 (wrapRow y0) acc)

/-- The display after a draw, and whether a pixel went from 1 to 0 (R141). -/
def draw (d : Display) (x0 y0 : Nat) (rows : List Byte) : Display × Bool := drawRows x0 rows y0 (d, false)

/-- `00E0` CLS (R140). -/
def execCls (s : State) : Host.Outcome State Fault Refusal := advance .cls s (s.writeDisp blankDisplay)

/-- `DXYN` DRW Vx, Vy, N (R141). The coordinates are read before `VF` is written; `N = 0` reads no memory. -/
def execDrw (x y : Reg) (n : Rows) (s : State) : Host.Outcome State Fault Refusal :=
  if n.val = 0 ∨ memFits (s.addr (n.val - 1)) then
    advance (.drw x y n) s
      ((s.writeDisp (draw s.disp (s.readV x).toNat (s.readV y).toNat (s.spriteRows n)).1).writeV flagReg
        (flagByte (draw s.disp (s.readV x).toNat (s.readV y).toNat (s.spriteRows n)).2))
  else raise .memOutOfRange (encode (.drw x y n)) s

end Sys2Proof.Machine
end

