-- ==== Sys2Proof/Machine/IndexMemory.lean ====
section
/-! DEFINITION. Index register, decimal digits, register block store and load (43_index_memory.md). The operand check
comes first, the check of the next `pc` last, both before any write. None of the three memory instructions moves `I`
(R134). -/

namespace Sys2Proof.Machine

/-- `ANNN` LD I, NNN (R130). -/
def execLdI (nnn : Addr) (s : State) : Host.Outcome State Fault Refusal :=
  advance (.ldI nnn) s (s.writeI (wideAddr nnn))

/-- `FX1E` ADD I, Vx (R131): the sum does not wrap and `VF` is not written. -/
def execAddI (x : Reg) (s : State) : Host.Outcome State Fault Refusal :=
  if 0xFFF < s.addr (s.readV x).toNat then raise .indexOutOfRange (encode (.addI x)) s
  else advance (.addI x) s (s.writeI (BitVec.ofNat 16 (s.addr (s.readV x).toNat)))

/-- `FX29` LD F, Vx (R132). -/
def execLdF (x : Reg) (s : State) : Host.Outcome State Fault Refusal :=
  advance (.ldF x) s (s.writeI (glyphAddr (s.readV x)))

/-- `FX33` LD B, Vx (R133). -/
def execLdB (x : Reg) (s : State) : Host.Outcome State Fault Refusal :=
  if memFits (s.addr 2) then advance (.ldB x) s (s.memWriteList (s.addr 0) (bcdDigits (s.readV x)))
  else raise .memOutOfRange (encode (.ldB x)) s

/-- `FX55` LD [I], Vx (R134). -/
def execStoreRegs (x : Reg) (s : State) : Host.Outcome State Fault Refusal :=
  if memFits (s.addr x.val) then advance (.storeRegs x) s (s.memWriteList (s.addr 0) (s.vUpTo x))
  else raise .memOutOfRange (encode (.storeRegs x)) s

/-- `FX65` LD Vx, [I] (R135). -/
def execLoadRegs (x : Reg) (s : State) : Host.Outcome State Fault Refusal :=
  if memFits (s.addr x.val) then advance (.loadRegs x) s (s.writeVUpTo x fun k => s.memRead (s.addr k))
  else raise .memOutOfRange (encode (.loadRegs x)) s

end Sys2Proof.Machine
end

