-- ==== Sys2Proof/Machine/TimerKeyRandom.lean ====
section
/-! DEFINITION. Timer access, key skips, key wait, random (45_timer_key_random.md): the instructions through which a
program meets the other two agents. -/

namespace Sys2Proof.Machine

/-- `FX07` LD Vx, DT (R150). -/
def execLdVxDT (x : Reg) (s : State) : Host.Outcome State Fault Refusal :=
  advance (.ldVxDT x) s (s.writeV x s.dt)

/-- `FX15` LD DT, Vx (R151). -/
def execLdDTVx (x : Reg) (s : State) : Host.Outcome State Fault Refusal :=
  advance (.ldDTVx x) s (s.writeDT (s.readV x))

/-- `FX18` LD ST, Vx (R152). -/
def execLdSTVx (x : Reg) (s : State) : Host.Outcome State Fault Refusal :=
  advance (.ldSTVx x) s (s.writeST (s.readV x))

/-- `EX9E` SKP Vx (R153). -/
def execSkp (x : Reg) (s : State) : Host.Outcome State Fault Refusal :=
  match keyOf (s.readV x) with
  | none => raise .keyIndexOutOfRange (encode (.skp x)) s
  | some c => skipIf s.keys[c] (.skp x) s

/-- `EXA1` SKNP Vx (R154). -/
def execSknp (x : Reg) (s : State) : Host.Outcome State Fault Refusal :=
  match keyOf (s.readV x) with
  | none => raise .keyIndexOutOfRange (encode (.sknp x)) s
  | some c => skipIf (!s.keys[c]) (.sknp x) s

/-- `FX0A` LD Vx, K (R155), the `Step` that fetches it: it parks, and `pc` stays. The later `Step` that resolves the
wait is `stepParked` (R92). -/
def execLdVxK (x : Reg) (s : State) : Host.Outcome State Fault Refusal :=
  match checkPc (s.pc.toNat + 2) with
  | .error k => raise k (encode (.ldVxK x)) s
  | .ok _ => retire s (s.park x) s.pc

/-- `CXNN` RND Vx, NN (R156): the byte is a draw. -/
def execRnd (x : Reg) (nn : Byte) (s : State) : Host.Outcome State Fault Refusal :=
  advance (.rnd x nn) s (s.rndTaken.writeV x (s.rndByte &&& nn))

end Sys2Proof.Machine
end

