-- ==== Sys2Proof/Machine/CoreStep.lean ====
section
/-! DEFINITION. The core's event `Step` (40_step_dispatch.md R90 to R93, R97): halted, parked or running. -/

namespace Sys2Proof.Machine

/-- `StepHalted()` (R91). -/
def stepHalted (s : State) : Host.Outcome State Fault Refusal := .next { s with dispChanged := false }

/-- `StepParked(x)` (R92): resolves the wait if the latch is valid; the instruction after the `FX0A` runs at the next
`Step`. -/
def stepParked (x : Reg) (s : State) : Host.Outcome State Fault Refusal :=
  match s.keyLatch with
  | some c => .next { (s.writeV x (keyByte c)).unpark with pc := s.pc + 2, dispChanged := false }
  | none => .next { s with dispChanged := false }

/-- The handler of an unknown encoding `op` (R97). -/
def execUnknown (op : Word) (s : State) : Host.Outcome State Fault Refusal :=
  match s.cfg.unknownPolicy with
  | .strict => raise .unknownOpcode op s
  | .lenient =>
    match checkPc (s.pc.toNat + 2) with
    | .error k => raise k op s
    | .ok p => retire s (s.emit (.diagUnknownOpcode s.pc op)) p

/-- `StepRunning(rnd)` (R93): fetch, decode, execute. A `pc` that breaks the invariant of R25 faults with `op = 0`, as
R93 allows a model to test (log entry 12). -/
def stepRunning (s : State) : Host.Outcome State Fault Refusal :=
  match checkPc s.pc.toNat with
  | .error k => raise k 0 s
  | .ok _ =>
    match decodeBytes (s.memReadList s.pc.toNat 2) with
    | .ok (i, _) => exec i s
    | .error _ => execUnknown (s.memReadWord s.pc.toNat) s

/-- `Step(rnd)` (R90). After it, a `Load` is no longer legal (R194). -/
def coreStep (s : State) : Host.Outcome State Fault Refusal :=
  match s.fault, s.mode with
  | some _, _ => stepHalted s.closeLoad
  | none, .waitingForKey x => stepParked x s.closeLoad
  | none, .running => stepRunning s.closeLoad

end Sys2Proof.Machine
end

