-- ==== Sys2Proof/Machine/Events.lean ====
section
/-! DEFINITION. The events of the timer engine and the host (60_exceptions.md R172, R175, R176; 70_reset_and_hazards.md
R190 to R194), and one function that performs any event. Every event is atomic (00_scope.md R9). -/

namespace Sys2Proof.Machine

/-- One tick of a timer: it stays at 0 (R172). -/
def countDown (b : Byte) : Byte := if b = 0 then 0 else b - 1

/-- `TimerTick` (R172), in every condition of the core. -/
def timerTick (s : State) : State := (s.writeDT (countDown s.dt)).writeST (countDown s.st)

/-- The latch takes this press: the key was up, the core is parked and not halted, the latch is empty (R175, R176). -/
def State.latches (s : State) (c : KeyCode) (pressed : Bool) : Bool :=
  pressed && !s.keys[c] && s.mode != .running && s.fault.isNone && s.keyLatch.isNone

/-- `KeySet(code, pressed)` (R175); a code above 15 is refused. -/
def keySet (code : Nat) (pressed : Bool) (s : State) : Host.Outcome State Fault Refusal :=
  if h : code < 16 then
    if s.latches ⟨code, h⟩ pressed then .next ((s.writeKey ⟨code, h⟩ pressed).writeLatch (some ⟨code, h⟩))
    else .next (s.writeKey ⟨code, h⟩ pressed)
  else .refused .noSuchKey

/-- `Reset(SEED)` (R190): every piece of state as R42 lists it; the parameters and the world stay (log entry 16). -/
def resetEvent (s : State) : State := State.resetWith s.cfg s.env

/-- The report of a truncation, if the image is longer than `LOAD_MAX` (R193). -/
def State.reportTruncation (s : State) (image : List Byte) : State :=
  if s.cfg.loadMax.val < image.length then s.emit (.loadTruncated image.length) else s

/-- `Load(image)` (R193), legal only directly after `Reset` and once (R194), else refused. -/
def loadEvent (image : List Byte) (s : State) : Host.Outcome State Fault Refusal :=
  if s.loadable then
    .next ((s.memWriteList 0x200 (image.take s.cfg.loadMax.val)).reportTruncation image).closeLoad
  else .refused .loadNotLegal

/-- Perform an event (R8). -/
def handle (e : Event) (s : State) : Host.Outcome State Fault Refusal :=
  match e with
  | .step => coreStep s
  | .timerTick => .next (timerTick s)
  | .keySet code pressed => keySet code pressed s
  | .reset _ => .next (resetEvent s)
  | .load image => loadEvent image s

end Sys2Proof.Machine
end

