-- ==== Sys2Proof/Machine/Step.lean ====
section
/-! DEFINITION. One step of the machine: the next event of the schedule, or the core's `Step` when the schedule is empty
(log entry 6); and where the host stores a word so that the next step runs it. -/

namespace Sys2Proof.Machine

/-- One atomic event (R9). -/
def step (s : State) : Host.Outcome State Fault Refusal :=
  match s.env.schedule with
  | [] => coreStep s
  | e :: rest => handle e (s.setSchedule rest)

/-- The state with an instruction's word stored at `pc`, and the core ready to run it at the very next step: nothing
else is scheduled, no fault is latched, the core is not parked, and no `Load` can follow. This stands for a program's
load (log entry 14). -/
def State.withFetchWord (s : State) (nbits w : Nat) : State :=
  (((s.memWriteList s.pc.toNat (bytesOfWord (BitVec.ofNat 16 (w % 2 ^ nbits)))).setSchedule []).unpark).closeLoad.clearFault

end Sys2Proof.Machine
end

