-- ==== Sys2Proof/Machine/Outputs.lean ====
section
/-! DEFINITION. What the host observes between events without changing anything (00_scope.md R11; 60_exceptions.md R160,
R162, R178, R179). `fault`, `disp_changed` and the output events are fields of State. -/

namespace Sys2Proof.Machine

/-- `tone` (R178): 1 while `ST > 0`. -/
def tone (s : State) : Bool := decide (0 < s.st.toNat)

/-- `DisplayRead` (R179): all 2048 pixels. -/
def displayRead (s : State) : Display := s.disp

/-- The halted condition (R163). -/
def halted (s : State) : Bool := s.fault.isSome

/-- The numeric codes of the faults (R160). -/
def FaultKind.code : FaultKind → Nat
  | .unknownOpcode => 1
  | .stackOverflow => 2
  | .stackUnderflow => 3
  | .memOutOfRange => 4
  | .indexOutOfRange => 5
  | .pcOutOfRange => 6
  | .pcMisaligned => 7
  | .keyIndexOutOfRange => 8

end Sys2Proof.Machine
end

