-- ==== Sys2Proof/Safety.lean ====
section
/-! DEFINITION. The terms claims use: legal program counters, the invariants of 10_state.md R41, safe and settled states,
and what a fault leaves. -/

namespace Sys2Proof.Machine

/-- A legal value of `pc`: even and at most `0xFFE` (R25, R94). -/
abbrev PcLegal (p : Word) : Prop := p.toNat % 2 = 0 ∧ p.toNat ≤ 0xFFE

/-- `Advance()` does not fault: `pc` is legal and `pc + 2` too (R95). -/
abbrev State.CanAdvance (s : State) : Prop := s.pc.toNat % 2 = 0 ∧ s.pc.toNat + 2 ≤ 0xFFE

/-- `Skip()` does not fault: `pc` is legal and `pc + 4` too (R95). -/
abbrev State.CanSkip (s : State) : Prop := s.pc.toNat % 2 = 0 ∧ s.pc.toNat + 4 ≤ 0xFFE

/-- What `raise Fault(k)` leaves of `s` (R161): the latch and `disp_changed`, nothing else. -/
def State.faulted (s : State) (k : FaultKind) (op : Word) : State :=
  { s with fault := some ⟨k, s.pc, op⟩, dispChanged := false }

/-- The core executes at its next `Step`: no fault, not parked (R90). -/
abbrev State.Runs (s : State) : Prop := s.fault = none ∧ s.mode = .running

/-- A safe state: no fault is latched (R163: claims take `fault = None` as what must be preserved). -/
abbrev State.Safe (s : State) : Prop := s.fault = none

/-- The core is settled (R197): running, no fault, and the word at `pc` is `1NNN` with `NNN = pc`. -/
def State.Settled (s : State) : Prop :=
  s.Runs ∧ PcLegal s.pc ∧ (s.memReadWord s.pc.toNat).toNat = 0x1000 + s.pc.toNat

/-- The invariants of the machine at event boundaries. The clauses marked (a) to (e) are R41's; the others are what keeps
those, and the canonical form of memory. -/
structure State.Inv (s : State) : Prop where
  /-- (a) `I <= 0xFFF` (R24). -/
  index : s.i.toNat ≤ 0xFFF
  /-- (b) `pc` even and `pc <= 0xFFE` (R25). -/
  pcLegal : PcLegal s.pc
  /-- (d) live stack entries are legal values of `pc` (R26); (c) `sp <= 16` holds by the type of `sp`. -/
  stackLegal : ∀ k : Fin 16, k.val < s.sp.val → PcLegal s.stack[k]
  /-- (e) while running, the latch is empty (R32). -/
  latchEmpty : s.mode = .running → s.keyLatch = none
  /-- While parked, `pc + 2` is legal: it was checked when `FX0A` parked (R92, R155). -/
  parkedCanAdvance : s.mode ≠ .running → s.pc.toNat + 2 ≤ 0xFFE
  /-- A fault is latched at the `pc` it names, with `disp_changed` 0 and the core not parked (R161), and a halted
  core takes no `Load` (R163). -/
  faultAtPc : ∀ f, s.fault = some f →
    f.atPc = s.pc ∧ s.dispChanged = false ∧ s.mode = .running ∧ s.loadable = false
  /-- Memory is in its canonical form. -/
  memWf : Memory.wf s.cfg.font s.mem = true

end Sys2Proof.Machine
end

