-- ==== Sys2Proof/Certificates/Slice0/Obligations.lean ====
section
/-! DEFINITION. The statements for the provers: what the spec's rules say of the model. Words are written from the table of
30_encoding.md R76 with the field positions of R71 as arithmetic on numbers, not with the model's encoder. A statement
about an instruction gives the next state as a record, so it says the frame too: what the record does not name is
unchanged. -/

namespace Sys2Proof.Rules

open Machine

/-- The word `C NNN` (R71, R72 `ADDR`). -/
def wordNNN (c : Nat) (nnn : Addr) : Word := BitVec.ofNat 16 (c * 0x1000 + nnn.toNat)

/-- The word `C X NN` (R71, R72 `REG_IMM`, `REG_SUB`). -/
def wordXNN (c : Nat) (x : Reg) (nn : Nat) : Word := BitVec.ofNat 16 (c * 0x1000 + x.val * 0x100 + nn)

/-- The word `C X Y N` (R71, R72 `REG_REG`, `REG_REG_N`). -/
def wordXYN (c : Nat) (x y : Reg) (n : Nat) : Word := BitVec.ofNat 16 (c * 0x1000 + x.val * 0x100 + y.val * 0x10 + n)

/-- The word `op` selects the instruction `i`, and it is the word of `i`. -/
def Encodes (op : Word) (i : Instr) : Prop := decodeWord op = .ok i ∧ encode i = op

/-- `pc + 2` is above `0xFFE`: on an even `pc` in range, the instruction stands at `0xFFE` (R95). -/
abbrev AtTheEnd (s : State) : Prop := 0xFFE < s.pc.toNat + 2

/-- The instruction `i` with word `op` always ends with `Advance()`: where `pc` can advance it completes, leaving
`effect s` with `pc + 2` and `disp_changed` 0; at the end of memory it faults and has no effect (R95). -/
def Advances (op : Word) (i : Instr) (effect : State → State) : Prop :=
  Encodes op i ∧ ∀ s : State,
    (s.CanAdvance → exec i s = .next { effect s with pc := s.pc + 2, dispChanged := false }) ∧
    (AtTheEnd s → exec i s = .next (s.faulted .pcOutOfRange op))

/-- The instruction `i` with word `op` skips the next instruction if `cond s` and advances otherwise; it writes nothing
but `pc` (R95, R104). -/
def Skips (op : Word) (i : Instr) (cond : State → Prop) : Prop :=
  Encodes op i ∧ ∀ s : State,
    (cond s → s.CanSkip → exec i s = .next { s with pc := s.pc + 4, dispChanged := false }) ∧
    (¬ cond s → s.CanAdvance → exec i s = .next { s with pc := s.pc + 2, dispChanged := false }) ∧
    (cond s → 0xFFE < s.pc.toNat + 4 → exec i s = .next (s.faulted .pcOutOfRange op)) ∧
    (¬ cond s → AtTheEnd s → exec i s = .next (s.faulted .pcOutOfRange op))

/-- The sprite of a `DXYN` has a set bit (R141). -/
def SpriteHasSetBit (s : State) (n : Rows) : Prop :=
  ∃ r < n.val, ∃ j < 8, (s.memRead (s.addr r)).getLsbD (7 - j) = true

/-- A set bit of the sprite of `DXYN` lands on row `yy`, column `xx` of the display (R142). -/
def SpriteCovers (s : State) (x y : Reg) (n : Rows) (yy : Fin 32) (xx : Fin 64) : Prop :=
  ∃ r < n.val, ∃ j < 8, (s.memRead (s.addr r)).getLsbD (7 - j) = true ∧
    (s.v[y].toNat + r) % 32 = yy.val ∧ (s.v[x].toNat + j) % 64 = xx.val

/-- The memory check of `DXYN` passes: `N = 0` or `I + N - 1 <= 0xFFF` (R141). -/
abbrev SpriteFits (s : State) (n : Rows) : Prop := n.val = 0 ∨ s.i.toNat + n.val ≤ 0x1000

/-- The flag-producing instructions (R21). -/
def FlagProducing : Instr → Prop
  | .addReg _ _ | .subReg _ _ | .subnReg _ _ | .shr _ _ | .shl _ _ | .drw _ _ _ => True
  | _ => False

/-- The general registers an instruction may write (R23); the key wait writes its register when it resolves. -/
def MayWriteReg : Instr → Reg → Prop
  | .ldImm x _, r | .addImm x _, r | .ldReg x _, r | .orReg x _, r | .andReg x _, r | .xorReg x _, r
  | .rnd x _, r | .ldVxDT x, r => r = x
  | .addReg x _, r | .subReg x _, r | .subnReg x _, r | .shr x _, r | .shl x _, r => r = x ∨ r = flagReg
  | .loadRegs x, r => r ≤ x
  | .drw _ _ _, r => r = flagReg
  | _, _ => False

/-- The kinds of fault an instruction can raise (R160, R164). -/
def faultKindsOf : Instr → List FaultKind
  | .ret => [.stackUnderflow]
  | .jp _ | .jpV0 _ => [.pcOutOfRange, .pcMisaligned]
  | .call _ => [.stackOverflow, .pcOutOfRange, .pcMisaligned]
  | .skp _ | .sknp _ => [.keyIndexOutOfRange, .pcOutOfRange]
  | .addI _ => [.indexOutOfRange, .pcOutOfRange]
  | .drw _ _ _ | .ldB _ | .storeRegs _ | .loadRegs _ => [.memOutOfRange, .pcOutOfRange]
  | _ => [.pcOutOfRange]

end Sys2Proof.Rules

open Sys2Proof Sys2Proof.Machine Sys2Proof.Rules

/-! ## Encoding (30_encoding.md) -/

/-- Decoding the bytes of a well-formed instruction gives it back, with every operand, and leaves the bytes after it
(R70, R74, R76). -/
def Obligations.DecodeGivesBackEncodedInstruction : Prop :=
  ∀ (i : Instr) (rest : List Byte), i.wellFormed = true → decodeBytes (encodeBytes i ++ rest) = .ok (i, rest)

/-- An instruction that a word decodes to has that word: no bit of a word is dropped (R74, R75). -/
def Obligations.EncodeGivesBackDecodedWord : Prop :=
  ∀ (op : Word) (i : Instr), decodeWord op = .ok i → encode i = op

/-- The decoder follows the opcode table of R76: a word it accepts matches the row of its instruction, and a word it
rejects matches no row. -/
def Obligations.DecoderFollowsOpcodeTable : Prop :=
  ∀ op : Word,
    (∀ i, decodeWord op = .ok i → rowOf i ∈ opcodeTable ∧ op &&& (rowOf i).mask = (rowOf i).pat) ∧
    (∀ e, decodeWord op = .error e → ∀ r ∈ opcodeTable, op &&& r.mask ≠ r.pat)

/-- The table of R76 has 34 rows and no word matches two of them. -/
def Obligations.OpcodeTableRowsAreDisjoint : Prop :=
  opcodeTable.length = 34 ∧
  ∀ op : Word, ∀ r ∈ opcodeTable, ∀ r' ∈ opcodeTable, op &&& r.mask = r.pat → op &&& r'.mask = r'.pat → r = r'

/-- The unknown encodings, class by class, are those of the table of R77. The names of the rejections are the model's
(log entry 21). -/
def Obligations.UnknownWordsAreThoseListed : Prop :=
  ∀ op : Word,
    (decodeWord op = .error .unknownClass0 ↔ op.toNat < 0x1000 ∧ op ≠ 0x00E0 ∧ op ≠ 0x00EE) ∧
    (decodeWord op = .error .unknownClass5 ↔ op.toNat / 0x1000 = 0x5 ∧ op.toNat % 0x10 ≠ 0) ∧
    (decodeWord op = .error .unknownClass8 ↔
      op.toNat / 0x1000 = 0x8 ∧ op.toNat % 0x10 ∈ [0x8, 0x9, 0xA, 0xB, 0xC, 0xD, 0xF]) ∧
    (decodeWord op = .error .unknownClass9 ↔ op.toNat / 0x1000 = 0x9 ∧ op.toNat % 0x10 ≠ 0) ∧
    (decodeWord op = .error .unknownClassE ↔ op.toNat / 0x1000 = 0xE ∧ op.toNat % 0x100 ∉ [0x9E, 0xA1]) ∧
    (decodeWord op = .error .unknownClassF ↔ op.toNat / 0x1000 = 0xF ∧
      op.toNat % 0x100 ∉ [0x07, 0x0A, 0x15, 0x18, 0x1E, 0x29, 0x33, 0x55, 0x65]) ∧
    decodeWord op ≠ .error .tooShort

/-- Some words of R76, one of each format, and what they stand for. -/
def Obligations.SampleWordsDecode : Prop :=
  decodeWord 0x00E0 = .ok .cls ∧ decodeWord 0x1234 = .ok (.jp 0x234) ∧ decodeWord 0x6FAB = .ok (.ldImm 0xF 0xAB) ∧
  decodeWord 0x82F0 = .ok (.ldReg 0x2 0xF) ∧ decodeWord 0xD015 = .ok (.drw 0x0 0x1 0x5) ∧
  decodeWord 0xF365 = .ok (.loadRegs 0x3) ∧ decodeWord 0x0000 = .error .unknownClass0

/-! ## The Step event (40_step_dispatch.md) -/

/-- One step of the machine performs the next event of the schedule, or the core's `Step` when none is scheduled. The
schedule is the model's (log entry 6); the events are R8's. -/
def Obligations.StepPerformsTheNextEvent : Prop :=
  ∀ s : State,
    (s.env.schedule = [] → step s = handle .step s) ∧
    (∀ e es, s.env.schedule = e :: es → step s = handle e { s with env := { s.env with schedule := es } })

/-- A running core executes the instruction that the two bytes at `pc` decode to (R90, R93, R96). What the step adds
around the instruction: no `Load` is legal any more (R194), and a scheduled `Step` is taken off the schedule. -/
def Obligations.StepRunsTheDecodedInstruction : Prop :=
  ∀ (s : State) (i : Instr) (rest : List Byte), s.Runs → PcLegal s.pc →
    decodeBytes [s.memRead s.pc.toNat, s.memRead (s.pc.toNat + 1)] = .ok (i, rest) →
    (s.env.schedule = [] → step s = exec i { s with loadable := false }) ∧
    (∀ es, s.env.schedule = .step :: es →
      step s = exec i { s with loadable := false, env := { s.env with schedule := es } })

/-- An unknown encoding at `pc` (R97): `Strict` raises `UnknownOpcode`; `Lenient` steps over the word and emits `diag`,
and at the end of memory faults with `PcOutOfRange` and emits nothing. That what is emitted goes to the end of the list
`env.outputs` is the model's choice (log entry 7). Of `loadable`, the model's record of R194, this says nothing. -/
def Obligations.UnknownEncodingFollowsThePolicy : Prop :=
  ∀ (s : State) (e : Reject), s.Runs → PcLegal s.pc → decodeWord (s.memReadWord s.pc.toNat) = .error e →
    ∃ t, handle .step s = .next t ∧
      (s.cfg.unknownPolicy = .strict →
        t = { s.faulted .unknownOpcode (s.memReadWord s.pc.toNat) with loadable := t.loadable }) ∧
      (s.cfg.unknownPolicy = .lenient → s.CanAdvance →
        t = { s with
          pc := s.pc + 2
          dispChanged := false
          loadable := t.loadable
          env := { s.env with
            outputs := s.env.outputs ++ [.diagUnknownOpcode s.pc (s.memReadWord s.pc.toNat)] } }) ∧
      (s.cfg.unknownPolicy = .lenient → AtTheEnd s →
        t = { s.faulted .pcOutOfRange (s.memReadWord s.pc.toNat) with loadable := t.loadable })

/-- A halted core's `Step` changes nothing but `disp_changed` (R91). Of `loadable`, the model's record of R194, this says
nothing; it is already false in every halted state a run reaches. -/
def Obligations.HaltedStepOnlyClearsDispChanged : Prop :=
  ∀ (s : State) (f : FaultRecord), s.fault = some f →
    ∃ t, handle .step s = .next t ∧ t = { s with dispChanged := false, loadable := t.loadable }

/-- A parked core's `Step` (R92): with an empty latch nothing happens; with a valid one the wait is resolved, and the
next instruction is not executed in the same `Step`. Of `loadable`, the model's record of R194, this says nothing. -/
def Obligations.ParkedStepResolvesTheWait : Prop :=
  ∀ (s : State) (x : Reg), s.fault = none → s.mode = .waitingForKey x →
    (s.keyLatch = none →
      ∃ t, handle .step s = .next t ∧ t = { s with dispChanged := false, loadable := t.loadable }) ∧
    (∀ c, s.keyLatch = some c →
      ∃ t, handle .step s = .next t ∧ t = { s with
        v := s.v.set x (BitVec.ofNat 8 c.val)
        pc := s.pc + 2
        mode := .running
        keyLatch := none
        dispChanged := false
        loadable := t.loadable })

/-- A fetch from a `pc` that breaks R25 faults with `op = 0`: the test that R93 allows a model to make (log entry 12,
the model's choice). -/
def Obligations.FetchFromIllegalPcFaults : Prop :=
  ∀ s : State, s.Runs →
    (0xFFE < s.pc.toNat → handle .step s = .next ({ s with loadable := false }.faulted .pcOutOfRange 0)) ∧
    (s.pc.toNat ≤ 0xFFE → s.pc.toNat % 2 = 1 →
      handle .step s = .next ({ s with loadable := false }.faulted .pcMisaligned 0))

/-- `CheckPc(t)` (R94): the range is tested first, then the alignment; otherwise the value is `t`. -/
def Obligations.CheckPcTestsRangeThenAlignment : Prop :=
  ∀ t : Nat,
    (0xFFE < t → checkPc t = .error .pcOutOfRange) ∧
    (t ≤ 0xFFE → t % 2 = 1 → checkPc t = .error .pcMisaligned) ∧
    (t ≤ 0xFFE → t % 2 = 0 → ∃ p, checkPc t = .ok p ∧ p.toNat = t)

/-- A store by `FX55` over the next instruction is seen by the very next fetch (R62). -/
def Obligations.NextFetchSeesTheStore : Prop :=
  ∀ (s : State) (x : Reg) (i : Instr), s.Runs → s.CanAdvance → s.i = s.pc + 2 →
    1 ≤ x.val → s.addr x.val ≤ 0xFFF → decodeWord (wordOfBytes s.v[0] s.v[1]) = .ok i →
    ∃ t, exec (.storeRegs x) s = .next t ∧ t.memReadWord t.pc.toNat = wordOfBytes s.v[0] s.v[1] ∧
      handle .step t = exec i { t with loadable := false }

/-- From a settled state a `Step` leaves all state unchanged (R197), but for `disp_changed`, which every `Step` writes
(R38), and the model's record of whether a `Load` is still legal (log entry 8). -/
def Obligations.SettledCoreStaysSettled : Prop :=
  ∀ s : State, s.Settled → handle .step s = .next { s with dispChanged := false, loadable := false }

/-! ## Control flow (41_control_flow.md) -/

/-- `00EE` RET (R100): pops into `pc`; with an empty stack it faults. -/
def Obligations.RetPopsIntoPc : Prop :=
  Encodes 0x00EE .ret ∧ ∀ s : State,
    (s.sp.val = 0 → exec .ret s = .next (s.faulted .stackUnderflow 0x00EE)) ∧
    (∀ k : Fin 16, s.sp = k.succ →
      exec .ret s = .next { s with sp := k.castSucc, pc := s.stack[k], dispChanged := false })

/-- `1NNN` JP NNN (R101). -/
def Obligations.JpGoesToTheAddress : Prop :=
  ∀ nnn : Addr, Encodes (wordNNN 0x1 nnn) (.jp nnn) ∧ ∀ s : State,
    (nnn.toNat = 0xFFF → exec (.jp nnn) s = .next (s.faulted .pcOutOfRange (wordNNN 0x1 nnn))) ∧
    (nnn.toNat ≠ 0xFFF → nnn.toNat % 2 = 1 →
      exec (.jp nnn) s = .next (s.faulted .pcMisaligned (wordNNN 0x1 nnn))) ∧
    (nnn.toNat % 2 = 0 →
      exec (.jp nnn) s = .next { s with pc := BitVec.ofNat 16 nnn.toNat, dispChanged := false })

/-- `2NNN` CALL NNN (R102): the checks in order, then the push of `pc + 2` and the jump. -/
def Obligations.CallPushesTheNextAddress : Prop :=
  ∀ nnn : Addr, Encodes (wordNNN 0x2 nnn) (.call nnn) ∧ ∀ s : State,
    (s.sp.val = 16 → exec (.call nnn) s = .next (s.faulted .stackOverflow (wordNNN 0x2 nnn))) ∧
    (s.sp.val ≠ 16 → AtTheEnd s → exec (.call nnn) s = .next (s.faulted .pcOutOfRange (wordNNN 0x2 nnn))) ∧
    (s.sp.val ≠ 16 → s.CanAdvance → nnn.toNat = 0xFFF →
      exec (.call nnn) s = .next (s.faulted .pcOutOfRange (wordNNN 0x2 nnn))) ∧
    (s.sp.val ≠ 16 → s.CanAdvance → nnn.toNat ≠ 0xFFF → nnn.toNat % 2 = 1 →
      exec (.call nnn) s = .next (s.faulted .pcMisaligned (wordNNN 0x2 nnn))) ∧
    (∀ k : Fin 16, s.sp = k.castSucc → s.CanAdvance → nnn.toNat % 2 = 0 →
      exec (.call nnn) s = .next { s with
        stack := s.stack.set k (s.pc + 2)
        sp := k.succ
        pc := BitVec.ofNat 16 nnn.toNat
        dispChanged := false })

/-- `BNNN` JP V0, NNN (R103): the sum does not wrap at 12 bits. -/
def Obligations.JpV0AddsTheOffset : Prop :=
  ∀ nnn : Addr, Encodes (wordNNN 0xB nnn) (.jpV0 nnn) ∧ ∀ s : State,
    (0xFFE < nnn.toNat + s.v[0].toNat →
      exec (.jpV0 nnn) s = .next (s.faulted .pcOutOfRange (wordNNN 0xB nnn))) ∧
    (nnn.toNat + s.v[0].toNat ≤ 0xFFE → (nnn.toNat + s.v[0].toNat) % 2 = 1 →
      exec (.jpV0 nnn) s = .next (s.faulted .pcMisaligned (wordNNN 0xB nnn))) ∧
    (nnn.toNat + s.v[0].toNat ≤ 0xFFE → (nnn.toNat + s.v[0].toNat) % 2 = 0 →
      exec (.jpV0 nnn) s = .next { s with
        pc := BitVec.ofNat 16 (nnn.toNat + s.v[0].toNat)
        dispChanged := false })

/-- `3XNN` SE Vx, NN (R104) and `4XNN` SNE Vx, NN (R105). -/
def Obligations.SkipsOnImmediate : Prop :=
  ∀ (x : Reg) (nn : Byte),
    Skips (wordXNN 0x3 x nn.toNat) (.seImm x nn) (fun s => s.v[x] = nn) ∧
    Skips (wordXNN 0x4 x nn.toNat) (.sneImm x nn) (fun s => s.v[x] ≠ nn)

/-- `5XY0` SE Vx, Vy (R106) and `9XY0` SNE Vx, Vy (R107). -/
def Obligations.SkipsOnRegister : Prop :=
  ∀ x y : Reg,
    Skips (wordXYN 0x5 x y 0) (.seReg x y) (fun s => s.v[x] = s.v[y]) ∧
    Skips (wordXYN 0x9 x y 0) (.sneReg x y) (fun s => s.v[x] ≠ s.v[y])

/-- Call and return (R108): the return leaves `pc` behind the call and the depth as it was before it, whatever the
called code did, as long as the entry is untouched. -/
def Obligations.ReturnUndoesCall : Prop :=
  ∀ (s : State) (nnn : Addr) (k : Fin 16), s.sp = k.castSucc → s.CanAdvance → nnn.toNat % 2 = 0 →
    ∃ t, exec (.call nnn) s = .next t ∧ t.pc.toNat = nnn.toNat ∧
      ∀ u : State, u.sp = t.sp → u.stack[k] = t.stack[k] →
        ∃ w, exec .ret u = .next w ∧ w.pc = s.pc + 2 ∧ w.sp = s.sp

/-! ## Load, arithmetic, logic, shifts (42_alu.md) -/

/-- `6XNN` LD Vx, NN (R110) and `7XNN` ADD Vx, NN (R111), which writes no flag. -/
def Obligations.LoadAndAddImmediate : Prop :=
  ∀ (x : Reg) (nn : Byte),
    Advances (wordXNN 0x6 x nn.toNat) (.ldImm x nn) (fun s => { s with v := s.v.set x nn }) ∧
    Advances (wordXNN 0x7 x nn.toNat) (.addImm x nn)
      (fun s => { s with v := s.v.set x (BitVec.ofNat 8 ((s.v[x].toNat + nn.toNat) % 256)) })

/-- `8XY0` LD (R112), `8XY1` OR (R113), `8XY2` AND (R114), `8XY3` XOR (R115): no flag effect. -/
def Obligations.MoveAndLogic : Prop :=
  ∀ x y : Reg,
    Advances (wordXYN 0x8 x y 0x0) (.ldReg x y) (fun s => { s with v := s.v.set x s.v[y] }) ∧
    Advances (wordXYN 0x8 x y 0x1) (.orReg x y) (fun s => { s with v := s.v.set x (s.v[x] ||| s.v[y]) }) ∧
    Advances (wordXYN 0x8 x y 0x2) (.andReg x y) (fun s => { s with v := s.v.set x (s.v[x] &&& s.v[y]) }) ∧
    Advances (wordXYN 0x8 x y 0x3) (.xorReg x y) (fun s => { s with v := s.v.set x (s.v[x] ^^^ s.v[y]) })

/-- `8XY4` ADD Vx, Vy (R116): the sum modulo 256, then `VF` is the carry; with `X = 15` the carry remains (R122). -/
def Obligations.AddWithCarryOut : Prop :=
  ∀ x y : Reg,
    Advances (wordXYN 0x8 x y 0x4) (.addReg x y) (fun s => { s with
      v := (s.v.set x (BitVec.ofNat 8 ((s.v[x].toNat + s.v[y].toNat) % 256))).set 15
        (if 255 < s.v[x].toNat + s.v[y].toNat then 1 else 0) })

/-- `8XY5` SUB Vx, Vy (R117) and `8XY7` SUBN Vx, Vy (R119): the difference modulo 256, then `VF` is the not-borrow. -/
def Obligations.SubtractWithNotBorrow : Prop :=
  ∀ x y : Reg,
    Advances (wordXYN 0x8 x y 0x5) (.subReg x y) (fun s => { s with
      v := (s.v.set x (BitVec.ofNat 8 ((s.v[x].toNat + 256 - s.v[y].toNat) % 256))).set 15
        (if s.v[y].toNat ≤ s.v[x].toNat then 1 else 0) }) ∧
    Advances (wordXYN 0x8 x y 0x7) (.subnReg x y) (fun s => { s with
      v := (s.v.set x (BitVec.ofNat 8 ((s.v[y].toNat + 256 - s.v[x].toNat) % 256))).set 15
        (if s.v[x].toNat ≤ s.v[y].toNat then 1 else 0) })

/-- `8XY6` SHR Vx (R118) and `8XYE` SHL Vx (R120): `V[X]` is shifted in place whatever `Y` is, then `VF` is the bit
shifted out, as 0 or 1. -/
def Obligations.ShiftByOne : Prop :=
  ∀ x y : Reg,
    Advances (wordXYN 0x8 x y 0x6) (.shr x y) (fun s => { s with
      v := (s.v.set x (BitVec.ofNat 8 (s.v[x].toNat / 2))).set 15 (BitVec.ofNat 8 (s.v[x].toNat % 2)) }) ∧
    Advances (wordXYN 0x8 x y 0xE) (.shl x y) (fun s => { s with
      v := (s.v.set x (BitVec.ofNat 8 (s.v[x].toNat * 2 % 256))).set 15 (BitVec.ofNat 8 (s.v[x].toNat / 128)) })

/-- `VF` (R21): a flag-producing instruction that completes leaves `0x00` or `0x01` in it; any other instruction
leaves it alone unless it names `VF` as its destination. -/
def Obligations.OnlyFlagProducersTouchVF : Prop :=
  ∀ (i : Instr) (s t : State), s.fault = none → exec i s = .next t →
    (FlagProducing i → t.fault = none → t.v[15] = 0 ∨ t.v[15] = 1) ∧
    (¬ FlagProducing i → ¬ MayWriteReg i flagReg → t.v[15] = s.v[15])

/-! ## Index register and memory (43_index_memory.md) -/

/-- `ANNN` LD I, NNN (R130), `FX29` LD F, Vx (R132), `FX1E` ADD I, Vx (R131) with its range check first. -/
def Obligations.IndexRegisterWrites : Prop :=
  (∀ nnn : Addr, Advances (wordNNN 0xA nnn) (.ldI nnn) (fun s => { s with i := BitVec.ofNat 16 nnn.toNat })) ∧
  (∀ x : Reg, Advances (wordXNN 0xF x 0x29) (.ldF x)
    (fun s => { s with i := BitVec.ofNat 16 (0x000 + 5 * (s.v[x].toNat % 16)) })) ∧
  (∀ x : Reg, Encodes (wordXNN 0xF x 0x1E) (.addI x) ∧ ∀ s : State,
    (0xFFF < s.i.toNat + s.v[x].toNat →
      exec (.addI x) s = .next (s.faulted .indexOutOfRange (wordXNN 0xF x 0x1E))) ∧
    (s.i.toNat + s.v[x].toNat ≤ 0xFFF → AtTheEnd s →
      exec (.addI x) s = .next (s.faulted .pcOutOfRange (wordXNN 0xF x 0x1E))) ∧
    (s.i.toNat + s.v[x].toNat ≤ 0xFFF → s.CanAdvance →
      exec (.addI x) s = .next { s with
        i := BitVec.ofNat 16 (s.i.toNat + s.v[x].toNat)
        pc := s.pc + 2
        dispChanged := false }))

/-- `FX33` LD B, Vx (R133): hundreds, tens, ones at `I`, `I + 1`, `I + 2`; every other byte reads as before. -/
def Obligations.BcdStoresThreeDigits : Prop :=
  ∀ x : Reg, Encodes (wordXNN 0xF x 0x33) (.ldB x) ∧ ∀ s : State,
    (0xFFF < s.addr 2 → exec (.ldB x) s = .next (s.faulted .memOutOfRange (wordXNN 0xF x 0x33))) ∧
    (s.addr 2 ≤ 0xFFF → AtTheEnd s → exec (.ldB x) s = .next (s.faulted .pcOutOfRange (wordXNN 0xF x 0x33))) ∧
    (s.addr 2 ≤ 0xFFF → s.CanAdvance →
      ∃ t, exec (.ldB x) s = .next t ∧
        t.memRead (s.addr 0) = BitVec.ofNat 8 (s.v[x].toNat / 100) ∧
        t.memRead (s.addr 1) = BitVec.ofNat 8 (s.v[x].toNat / 10 % 10) ∧
        t.memRead (s.addr 2) = BitVec.ofNat 8 (s.v[x].toNat % 10) ∧
        (∀ a, a < s.addr 0 ∨ s.addr 2 < a → t.memRead a = s.memRead a) ∧
        t = { s with mem := t.mem, pc := s.pc + 2, dispChanged := false })

/-- `FX55` LD [I], Vx (R134): `V[0..X]` at `I` upward; every other byte reads as before, and `I` is not moved. -/
def Obligations.StoreWritesRegisterBlock : Prop :=
  ∀ x : Reg, Encodes (wordXNN 0xF x 0x55) (.storeRegs x) ∧ ∀ s : State,
    (0xFFF < s.addr x.val →
      exec (.storeRegs x) s = .next (s.faulted .memOutOfRange (wordXNN 0xF x 0x55))) ∧
    (s.addr x.val ≤ 0xFFF → AtTheEnd s →
      exec (.storeRegs x) s = .next (s.faulted .pcOutOfRange (wordXNN 0xF x 0x55))) ∧
    (s.addr x.val ≤ 0xFFF → s.CanAdvance →
      ∃ t, exec (.storeRegs x) s = .next t ∧
        (∀ k : Reg, k ≤ x → t.memRead (s.addr k.val) = s.v[k]) ∧
        (∀ a, a < s.addr 0 ∨ s.addr x.val < a → t.memRead a = s.memRead a) ∧
        t = { s with mem := t.mem, pc := s.pc + 2, dispChanged := false })

/-- `FX65` LD Vx, [I] (R135): `V[0..X]` from `I` upward; registers above `X`, `I` and memory are as before. -/
def Obligations.LoadReadsRegisterBlock : Prop :=
  ∀ x : Reg, Encodes (wordXNN 0xF x 0x65) (.loadRegs x) ∧ ∀ s : State,
    (0xFFF < s.addr x.val →
      exec (.loadRegs x) s = .next (s.faulted .memOutOfRange (wordXNN 0xF x 0x65))) ∧
    (s.addr x.val ≤ 0xFFF → AtTheEnd s →
      exec (.loadRegs x) s = .next (s.faulted .pcOutOfRange (wordXNN 0xF x 0x65))) ∧
    (s.addr x.val ≤ 0xFFF → s.CanAdvance →
      ∃ t, exec (.loadRegs x) s = .next t ∧
        (∀ k : Reg, k ≤ x → t.v[k] = s.memRead (s.addr k.val)) ∧
        (∀ k : Reg, x < k → t.v[k] = s.v[k]) ∧
        t = { s with v := t.v, pc := s.pc + 2, dispChanged := false })

/-- Store and load (R136): a load at the same `I`, from bytes still as the store left them, gives back the registers,
whatever happened to them in between. -/
def Obligations.LoadUndoesStore : Prop :=
  ∀ (s u : State) (x : Reg), s.CanAdvance → s.addr x.val ≤ 0xFFF → u.CanAdvance → u.i = s.i →
    ∃ t, exec (.storeRegs x) s = .next t ∧
      ((∀ k : Reg, k ≤ x → u.memRead (s.addr k.val) = t.memRead (s.addr k.val)) →
        ∃ w, exec (.loadRegs x) u = .next w ∧ ∀ k : Reg, k ≤ x → w.v[k] = s.v[k])

/-- Equal memories are equal data: two memories in canonical form that read alike are the same list (the model's form,
log entry 15). -/
def Obligations.CanonicalMemoryIsDeterminedByReads : Prop :=
  ∀ (font : Font) (m m' : Memory), Memory.wf font m = true → Memory.wf font m' = true →
    (∀ a, Memory.read font m a = Memory.read font m' a) → m = m'

/-! ## Display (44_display.md) -/

/-- `00E0` CLS (R140). -/
def Obligations.ClsClearsEveryPixel : Prop :=
  Encodes 0x00E0 .cls ∧ ∀ s : State,
    (AtTheEnd s → exec .cls s = .next (s.faulted .pcOutOfRange 0x00E0)) ∧
    (s.CanAdvance → ∃ t, exec .cls s = .next t ∧
      (∀ y x, pixel t.disp y x = false) ∧
      (t.dispChanged = true ↔ ∃ y x, pixel s.disp y x = true) ∧
      t = { s with disp := t.disp, pc := s.pc + 2, dispChanged := t.dispChanged })

/-- `DXYN` DRW Vx, Vy, N (R141, R142): a pixel is inverted exactly where a set bit of the sprite lands, with wrap-around
per pixel; `VF` is 1 iff such a pixel was set; all checks come before any write. -/
def Obligations.DrwXorsTheSprite : Prop :=
  ∀ (x y : Reg) (n : Rows), Encodes (wordXYN 0xD x y n.val) (.drw x y n) ∧ ∀ s : State,
    (¬ SpriteFits s n → exec (.drw x y n) s = .next (s.faulted .memOutOfRange (wordXYN 0xD x y n.val))) ∧
    (SpriteFits s n → AtTheEnd s →
      exec (.drw x y n) s = .next (s.faulted .pcOutOfRange (wordXYN 0xD x y n.val))) ∧
    (SpriteFits s n → s.CanAdvance →
      ∃ t, exec (.drw x y n) s = .next t ∧
        (∀ yy xx, pixel t.disp yy xx ≠ pixel s.disp yy xx ↔ SpriteCovers s x y n yy xx) ∧
        ((∃ yy xx, pixel s.disp yy xx = true ∧ SpriteCovers s x y n yy xx) → t.v[15] = 1) ∧
        ((∀ yy xx, pixel s.disp yy xx = true → ¬ SpriteCovers s x y n yy xx) → t.v[15] = 0) ∧
        (t.dispChanged = true ↔ SpriteHasSetBit s n) ∧
        t = { s with
          disp := t.disp
          v := s.v.set 15 t.v[15]
          pc := s.pc + 2
          dispChanged := t.dispChanged })

/-- Double draw: drawing the same sprite at the same place again restores the display (R143). The second draw reports a
collision iff some pixel that the sprite covers was unset before the first draw, as R141 gives it; R143 says "if the
sprite has at least one set bit", which differs where all those pixels were set (log entry 22, the model's choice). -/
def Obligations.SecondDrawRestoresTheDisplay : Prop :=
  ∀ (s u : State) (x y : Reg) (n : Rows), x ≠ 15 → y ≠ 15 → SpriteFits s n → s.CanAdvance → u.CanAdvance →
    u.i = s.i → u.v[x] = s.v[x] → u.v[y] = s.v[y] →
    (∀ r < n.val, u.memRead (s.addr r) = s.memRead (s.addr r)) →
    ∃ t, exec (.drw x y n) s = .next t ∧
      (u.disp = t.disp → ∃ w, exec (.drw x y n) u = .next w ∧ w.disp = s.disp ∧
        ((∃ yy xx, pixel s.disp yy xx = false ∧ SpriteCovers s x y n yy xx) → w.v[15] = 1) ∧
        ((∀ yy xx, pixel s.disp yy xx = false → ¬ SpriteCovers s x y n yy xx) → w.v[15] = 0))

/-- `disp_changed` (R38): after every `Step` it says whether that `Step` left some pixel different; `Reset` writes 0;
`TimerTick`, `KeySet` and `Load` do not change it; and no instruction reads it. -/
def Obligations.DispChangedTellsWhetherAPixelChanged : Prop :=
  ∀ s : State,
    (∃ t, handle .step s = .next t ∧ (t.dispChanged = true ↔ ∃ y x, pixel t.disp y x ≠ pixel s.disp y x)) ∧
    (∀ seed, ∃ t, handle (.reset seed) s = .next t ∧ t.dispChanged = false) ∧
    (∃ t, handle .timerTick s = .next t ∧ t.dispChanged = s.dispChanged) ∧
    (∀ code pressed t, handle (.keySet code pressed) s = .next t → t.dispChanged = s.dispChanged) ∧
    (∀ image t, handle (.load image) s = .next t → t.dispChanged = s.dispChanged) ∧
    (∀ i b, exec i { s with dispChanged := b } = exec i s)

/-! ## Timers, keys, random (45_timer_key_random.md, 60_exceptions.md) -/

/-- `FX07` LD Vx, DT (R150), `FX15` LD DT, Vx (R151), `FX18` LD ST, Vx (R152). -/
def Obligations.TimerReadsAndWrites : Prop :=
  ∀ x : Reg,
    Advances (wordXNN 0xF x 0x07) (.ldVxDT x) (fun s => { s with v := s.v.set x s.dt }) ∧
    Advances (wordXNN 0xF x 0x15) (.ldDTVx x) (fun s => { s with dt := s.v[x] }) ∧
    Advances (wordXNN 0xF x 0x18) (.ldSTVx x) (fun s => { s with st := s.v[x] })

/-- `EX9E` SKP Vx (R153) and `EXA1` SKNP Vx (R154): the key check first, then the skip on the key's level. -/
def Obligations.KeySkips : Prop :=
  ∀ x : Reg, Encodes (wordXNN 0xE x 0x9E) (.skp x) ∧ Encodes (wordXNN 0xE x 0xA1) (.sknp x) ∧ ∀ s : State,
    (0x0F < s.v[x].toNat →
      exec (.skp x) s = .next (s.faulted .keyIndexOutOfRange (wordXNN 0xE x 0x9E)) ∧
      exec (.sknp x) s = .next (s.faulted .keyIndexOutOfRange (wordXNN 0xE x 0xA1))) ∧
    (∀ c : KeyCode, s.v[x].toNat = c.val →
      (s.CanSkip →
        (s.keys[c] = true → exec (.skp x) s = .next { s with pc := s.pc + 4, dispChanged := false }) ∧
        (s.keys[c] = false → exec (.sknp x) s = .next { s with pc := s.pc + 4, dispChanged := false })) ∧
      (s.CanAdvance →
        (s.keys[c] = false → exec (.skp x) s = .next { s with pc := s.pc + 2, dispChanged := false }) ∧
        (s.keys[c] = true → exec (.sknp x) s = .next { s with pc := s.pc + 2, dispChanged := false })) ∧
      (0xFFE < s.pc.toNat + 4 →
        (s.keys[c] = true → exec (.skp x) s = .next (s.faulted .pcOutOfRange (wordXNN 0xE x 0x9E))) ∧
        (s.keys[c] = false → exec (.sknp x) s = .next (s.faulted .pcOutOfRange (wordXNN 0xE x 0xA1)))) ∧
      (AtTheEnd s →
        (s.keys[c] = false → exec (.skp x) s = .next (s.faulted .pcOutOfRange (wordXNN 0xE x 0x9E))) ∧
        (s.keys[c] = true → exec (.sknp x) s = .next (s.faulted .pcOutOfRange (wordXNN 0xE x 0xA1)))))

/-- `FX0A` LD Vx, K (R155): it parks, with the latch cleared and `pc` unchanged; the first later `Step` with a valid
latch stores the key's code and moves on. -/
def Obligations.KeyWaitParksAndResolves : Prop :=
  ∀ x : Reg, Encodes (wordXNN 0xF x 0x0A) (.ldVxK x) ∧ ∀ s : State,
    (AtTheEnd s → exec (.ldVxK x) s = .next (s.faulted .pcOutOfRange (wordXNN 0xF x 0x0A))) ∧
    (s.CanAdvance →
      exec (.ldVxK x) s = .next { s with mode := .waitingForKey x, keyLatch := none, dispChanged := false }) ∧
    (∀ c, s.fault = none → s.mode = .waitingForKey x → s.keyLatch = some c →
      ∃ t, handle .step s = .next t ∧ t = { s with
        v := s.v.set x (BitVec.ofNat 8 c.val)
        pc := s.pc + 2
        mode := .running
        keyLatch := none
        dispChanged := false
        loadable := t.loadable })

/-- `CXNN` RND Vx, NN (R156): `V[X]` receives the byte on the port `rnd` under the mask. Where the world has fixed the
next byte it is that one, for every byte; otherwise it is a draw, of which only the mask is known, and the next draw is
another one (log entry 5). -/
def Obligations.RndIsADrawUnderTheMask : Prop :=
  ∀ (x : Reg) (nn : Byte), Encodes (wordXNN 0xC x nn.toNat) (.rnd x nn) ∧ ∀ s : State,
    (AtTheEnd s → exec (.rnd x nn) s = .next (s.faulted .pcOutOfRange (wordXNN 0xC x nn.toNat))) ∧
    (s.CanAdvance → ∀ b rest, s.env.rndIn = b :: rest →
      exec (.rnd x nn) s = .next { s with
        v := s.v.set x (b &&& nn)
        pc := s.pc + 2
        dispChanged := false
        env := { s.env with rndIn := rest } }) ∧
    (s.CanAdvance → s.env.rndIn = [] →
      ∃ b : Byte, exec (.rnd x nn) s = .next { s with
        v := s.v.set x (b &&& nn)
        pc := s.pc + 2
        dispChanged := false
        env := { s.env with draws := s.env.draws + 1 } })

/-- `TimerTick` (R172): both timers count down by one and stay at 0, in every condition of the core; nothing else
changes. -/
def Obligations.TimerTickCountsDown : Prop :=
  ∀ s : State, handle .timerTick s = .next { s with
    dt := BitVec.ofNat 8 (s.dt.toNat - 1)
    st := BitVec.ofNat 8 (s.st.toNat - 1) }

/-- The countdown law (R173): `n` ticks take `DT = d` to `max(d - n, 0)`, and `ST` likewise. -/
def Obligations.CountdownLaw : Prop :=
  ∀ (n : Nat) (s : State), timerTick^[n] s = { s with
    dt := BitVec.ofNat 8 (s.dt.toNat - n)
    st := BitVec.ofNat 8 (s.st.toNat - n) }

/-- `KeySet(code, pressed)` (R175, R176): it writes the key, and the latch takes the first press transition of a parked,
unhalted core; a code above 15 is refused. -/
def Obligations.KeySetWritesKeyAndLatch : Prop :=
  ∀ (s : State) (pressed : Bool),
    (∀ c : KeyCode,
      (pressed = true ∧ s.keys[c] = false ∧ (∃ x, s.mode = .waitingForKey x) ∧ s.fault = none ∧ s.keyLatch = none →
        handle (.keySet c.val pressed) s = .next { s with keys := s.keys.set c pressed, keyLatch := some c }) ∧
      (¬ (pressed = true ∧ s.keys[c] = false ∧ (∃ x, s.mode = .waitingForKey x) ∧ s.fault = none ∧
          s.keyLatch = none) →
        handle (.keySet c.val pressed) s = .next { s with keys := s.keys.set c pressed })) ∧
    (∀ code, 15 < code → handle (.keySet code pressed) s = .refused .noSuchKey)

/-- `tone` (R178) is the level `ST > 0`: it follows `FX18` at once, falls at the tick that takes `ST` from 1 to 0, and
is off after `Reset`. -/
def Obligations.ToneFollowsTheSoundTimer : Prop :=
  ∀ s : State,
    (tone s = true ↔ s.st ≠ 0) ∧
    (∀ x : Reg, s.CanAdvance → ∃ t, exec (.ldSTVx x) s = .next t ∧ (tone t = true ↔ s.v[x] ≠ 0)) ∧
    (∃ t, handle .timerTick s = .next t ∧ (tone t = true ↔ 1 < s.st.toNat)) ∧
    (∀ seed, ∃ t, handle (.reset seed) s = .next t ∧ tone t = false)

/-! ## Faults, halting, invariants (60_exceptions.md, 10_state.md) -/

/-- Faults are precise (R161): an instruction, known or unknown, that does not complete leaves the latch with its kind,
its address and its word, `disp_changed` 0, and nothing else changed. -/
def Obligations.FaultsArePrecise : Prop :=
  ∀ s t : State, s.fault = none →
    (∀ i, exec i s = .next t → t.fault = none ∨ ∃ k, t = s.faulted k (encode i)) ∧
    (∀ op, execUnknown op s = .next t → t.fault = none ∨ ∃ k, t = s.faulted k op)

/-- Every instruction answers a next state from every state, and so does every `Step` (R90, R96; faults are
states of the machine, log entry 11). -/
def Obligations.EveryInstructionAnswersNext : Prop :=
  (∀ (i : Instr) (s : State), ∃ t, exec i s = .next t) ∧
  (∀ s : State, ∃ t, handle .step s = .next t)

/-- An instruction raises only the kinds of fault that R160 and R164 list for it. -/
def Obligations.FaultKindsAreThoseListed : Prop :=
  ∀ (i : Instr) (s t : State) (f : FaultRecord), PcLegal s.pc → s.fault = none → exec i s = .next t →
    t.fault = some f → f.kind ∈ faultKindsOf i

/-- Halted (R163, R41 f): until the next `Reset` only the timers and the keys change, and `Load` is refused. -/
def Obligations.HaltedUntilReset : Prop :=
  ∀ (e : Event) (s : State), s.Inv → s.fault ≠ none →
    (∀ image, handle (.load image) s = .refused .loadNotLegal) ∧
    (∀ seed t, handle (.reset seed) s = .next t → t.fault = none) ∧
    (∀ t, (∀ seed, e ≠ .reset seed) → handle e s = .next t →
      t = { s with dt := t.dt, st := t.st, keys := t.keys })

/-- Which instructions write which state (R23, R24, R26, R27, R29, R30, R31, R51): every other instruction leaves it as
it was. -/
def Obligations.InstructionsWriteOnlyTheirState : Prop :=
  ∀ (i : Instr) (s t : State), exec i s = .next t →
    (∀ r : Reg, ¬ MayWriteReg i r → t.v[r] = s.v[r]) ∧
    (t.i ≠ s.i → (∃ nnn, i = .ldI nnn) ∨ (∃ x, i = .addI x) ∨ (∃ x, i = .ldF x)) ∧
    (t.stack ≠ s.stack → ∃ nnn, i = .call nnn) ∧
    (t.sp ≠ s.sp → i = .ret ∨ ∃ nnn, i = .call nnn) ∧
    (t.dt ≠ s.dt → ∃ x, i = .ldDTVx x) ∧
    (t.st ≠ s.st → ∃ x, i = .ldSTVx x) ∧
    (t.mem ≠ s.mem → (∃ x, i = .ldB x) ∨ (∃ x, i = .storeRegs x)) ∧
    (t.disp ≠ s.disp → i = .cls ∨ ∃ x y n, i = .drw x y n) ∧
    (t.mode ≠ s.mode ∨ t.keyLatch ≠ s.keyLatch → ∃ x, i = .ldVxK x) ∧
    (t.env ≠ s.env → ∃ x nn, i = .rnd x nn) ∧
    t.keys = s.keys ∧ t.loadable = s.loadable ∧ t.cfg = s.cfg

/-- The invariants hold right after reset (R41, R42). -/
def Obligations.ResetMeetsTheInvariants : Prop := State.reset.Inv

/-- Every step keeps the invariants (R41), from every state that meets them and whatever event comes. -/
def Obligations.EveryStepKeepsTheInvariants : Prop :=
  ∀ s t : State, s.Inv → step s = .next t → t.Inv

/-- No step changes the parameters (R7, R40), and the world only goes forward: outputs are added at the end, and no draw
is taken twice, because the counter of draws never falls, and a `CXNN` that takes the draw at the counter moves the
counter past it (the model's choices, log entries 1, 5, 7). -/
def Obligations.ParametersAndWorldAreKept : Prop :=
  (∀ s t : State, step s = .next t →
    t.cfg = s.cfg ∧ s.env.outputs <+: t.env.outputs ∧ s.env.draws ≤ t.env.draws) ∧
  (∀ (x : Reg) (nn : Byte) (s : State), s.CanAdvance → s.env.rndIn = [] →
    ∃ t, exec (.rnd x nn) s = .next t ∧ t.v[x] = Config.rndByte s.env.draws &&& nn ∧
      t.env.draws = s.env.draws + 1)

/-! ## Reset and load (70_reset_and_hazards.md) -/

/-- `Reset` writes every piece of state with the values of R42, memory included (R191), in every state, and keeps nothing
of the earlier one but the parameters and the world around the machine (log entry 16). That memory lists no byte is the
model's form of its reset contents (log entry 15), and `loadable` is the model's record of R194 (log entry 8). -/
def Obligations.ResetWritesEveryRegister : Prop :=
  ∀ (seed : Nat) (s : State), ∃ t, handle (.reset seed) s = .next t ∧
    (∀ r : Reg, t.v[r] = 0) ∧ t.i = 0 ∧ t.pc = 0x200 ∧ (∀ k : Fin 16, t.stack[k] = 0) ∧ t.sp = 0 ∧ t.dt = 0 ∧ t.st = 0 ∧
    (∀ c : KeyCode, t.keys[c] = false) ∧ (∀ y x, pixel t.disp y x = false) ∧ t.mode = .running ∧ t.keyLatch = none ∧
    t.fault = none ∧ t.dispChanged = false ∧
    (∀ k : Fin 80, t.memRead k.val = s.cfg.font[k]) ∧ (∀ a, 80 ≤ a → a ≤ 0xFFF → t.memRead a = 0) ∧ t.mem = [] ∧
    t.loadable = true ∧ t.cfg = s.cfg ∧ t.env = s.env

/-- Memory at reset (R191): zeros, then the font at `0x000..0x04F`; so the glyph of digit `d` is at `5 * d`. -/
def Obligations.ResetInstallsTheFont : Prop :=
  ∀ (seed : Nat) (s : State), ∃ t, handle (.reset seed) s = .next t ∧
    (∀ k : Fin 80, t.memRead (0x000 + k.val) = s.cfg.font[k]) ∧ (∀ a, 80 ≤ a → a ≤ 0xFFF → t.memRead a = 0)

/-- `Load(image)` (R193): the first `min(length, LOAD_MAX)` bytes from `0x200` upward, a report if the image was
truncated, and no other change. -/
def Obligations.LoadCopiesTheImage : Prop :=
  ∀ (image : List Byte) (s : State), s.loadable = true →
    ∃ t, handle (.load image) s = .next t ∧
      (∀ k (h : k < image.length), k < s.cfg.loadMax.val → t.memRead (0x200 + k) = image[k]) ∧
      (∀ a, a < 0x200 ∨ 0x200 + min image.length s.cfg.loadMax.val ≤ a → t.memRead a = s.memRead a) ∧
      (s.cfg.loadMax.val < image.length → t = { s with
        mem := t.mem
        loadable := false
        env := { s.env with outputs := s.env.outputs ++ [.loadTruncated image.length] } }) ∧
      (image.length ≤ s.cfg.loadMax.val → t = { s with mem := t.mem, loadable := false })

/-- When `Load` is legal (R194): from `Reset` until the first `Step` or the first `Load`; otherwise it is refused. With no
`Load` the first word is `0x0000`, an unknown encoding. -/
def Obligations.LoadOnlyDirectlyAfterReset : Prop :=
  ∀ s : State,
    (∀ seed t, handle (.reset seed) s = .next t →
      t.loadable = true ∧ t.memReadWord t.pc.toNat = 0x0000 ∧ decodeWord 0x0000 = .error .unknownClass0) ∧
    (∀ t, handle .step s = .next t → t.loadable = false) ∧
    (∀ image t, handle (.load image) s = .next t → t.loadable = false) ∧
    (∀ t, handle .timerTick s = .next t → t.loadable = s.loadable) ∧
    (∀ code pressed t, handle (.keySet code pressed) s = .next t → t.loadable = s.loadable) ∧
    (∀ image, s.loadable = false → handle (.load image) s = .refused .loadNotLegal)

/-- The launch state (R196), after `Reset` and a `Load` of an image that is not truncated. -/
def Obligations.LaunchState : Prop :=
  ∀ (seed : Nat) (image : List Byte) (s : State), image.length ≤ s.cfg.loadMax.val →
    ∃ t u, handle (.reset seed) s = .next t ∧ handle (.load image) t = .next u ∧
      u.pc = 0x200 ∧ (∀ r : Reg, u.v[r] = 0) ∧ u.i = 0 ∧ u.sp = 0 ∧ u.dt = 0 ∧ u.st = 0 ∧
      (∀ c : KeyCode, u.keys[c] = false) ∧ (∀ y x, pixel u.disp y x = false) ∧ u.mode = .running ∧ u.fault = none ∧
      u.keyLatch = none ∧
      (∀ k : Fin 80, u.memRead k.val = s.cfg.font[k]) ∧
      (∀ a, 0x050 ≤ a → a < 0x200 → u.memRead a = 0) ∧
      (∀ k (h : k < image.length), u.memRead (0x200 + k) = image[k]) ∧
      (∀ a, 0x200 + image.length ≤ a → a ≤ 0xFFF → u.memRead a = 0)
end

