-- ==== Sys2Proof/Laws/Decode.lean ====
section
/-! SUPPORT. The fields of a word put together by a format are the operands it was made from (R71, R72). -/

namespace Sys2Proof

@[simp] theorem nibbleOf_nibbleBits (n : Fin 16) : nibbleOf (nibbleBits n) = n := by
  apply Fin.ext
  simp [nibbleOf, nibbleBits]

@[simp] theorem nibbleBits_nibbleOf (b : BitVec 4) : nibbleBits (nibbleOf b) = b := by
  apply BitVec.eq_of_toNat_eq
  simp [nibbleOf, nibbleBits]

theorem fmtAddr_toNat (c : BitVec 4) (nnn : Addr) : (fmtAddr c nnn).toNat = c.toNat * 4096 + nnn.toNat := by
  have := nnn.isLt
  simp only [fmtAddr, BitVec.toNat_append]
  rw [← Nat.shiftLeft_add_eq_or_of_lt nnn.isLt, Nat.shiftLeft_eq]

theorem fmtRegImm_toNat (c : BitVec 4) (x : Reg) (nn : Byte) :
    (fmtRegImm c x nn).toNat = c.toNat * 4096 + x.val * 256 + nn.toNat := by
  have hx : (nibbleBits x).toNat = x.val := by simp [nibbleBits]
  have h1 : (c ++ nibbleBits x).toNat = c.toNat * 16 + x.val := by
    rw [BitVec.toNat_append, ← Nat.shiftLeft_add_eq_or_of_lt (nibbleBits x).isLt, Nat.shiftLeft_eq, hx]
  unfold fmtRegImm
  rw [BitVec.toNat_append, ← Nat.shiftLeft_add_eq_or_of_lt nn.isLt, Nat.shiftLeft_eq, h1]
  omega

theorem fmtRegReg_toNat (c : BitVec 4) (x y : Reg) (n : Fin 16) :
    (fmtRegReg c x y n).toNat = c.toNat * 4096 + x.val * 256 + y.val * 16 + n.val := by
  have h (m : Fin 16) : (nibbleBits m).toNat = m.val := by simp [nibbleBits]
  have h1 : (c ++ nibbleBits x).toNat = c.toNat * 16 + x.val := by
    rw [BitVec.toNat_append, ← Nat.shiftLeft_add_eq_or_of_lt (nibbleBits x).isLt, Nat.shiftLeft_eq, h]
  have h2 : ((c ++ nibbleBits x) ++ nibbleBits y).toNat = (c.toNat * 16 + x.val) * 16 + y.val := by
    rw [BitVec.toNat_append, ← Nat.shiftLeft_add_eq_or_of_lt (nibbleBits y).isLt, Nat.shiftLeft_eq, h1, h]
  unfold fmtRegReg
  rw [BitVec.toNat_append, ← Nat.shiftLeft_add_eq_or_of_lt (nibbleBits n).isLt, Nat.shiftLeft_eq, h2, h]
  omega

/-! The fields of a word as arithmetic on its number. -/

theorem cOf_val (op : Word) : (cOf op).val = op.toNat / 4096 % 16 := by
  simp [cOf, nibbleOf, Nat.shiftRight_eq_div_pow]

theorem xOf_val (op : Word) : (xOf op).val = op.toNat / 256 % 16 := by
  simp [xOf, nibbleOf, Nat.shiftRight_eq_div_pow]

theorem yOf_val (op : Word) : (yOf op).val = op.toNat / 16 % 16 := by
  simp [yOf, nibbleOf, Nat.shiftRight_eq_div_pow]

theorem nOf_val (op : Word) : (nOf op).val = op.toNat % 16 := by
  simp [nOf, nibbleOf]

theorem nnOf_toNat (op : Word) : (nnOf op).toNat = op.toNat % 256 := by
  simp [nnOf]

theorem nnnOf_toNat (op : Word) : (nnnOf op).toNat = op.toNat % 4096 := by
  simp [nnnOf]

/-! A format's fields are the operands it was made from. -/

theorem cOf_fmtAddr (c : BitVec 4) (nnn : Addr) : (cOf (fmtAddr c nnn)).val = c.toNat := by
  have h1 := nnn.isLt
  have h2 := c.isLt
  rw [cOf_val, fmtAddr_toNat]
  omega

theorem nnnOf_fmtAddr (c : BitVec 4) (nnn : Addr) : nnnOf (fmtAddr c nnn) = nnn := by
  have h1 := nnn.isLt
  apply BitVec.eq_of_toNat_eq
  rw [nnnOf_toNat, fmtAddr_toNat]
  omega

theorem cOf_fmtRegImm (c : BitVec 4) (x : Reg) (nn : Byte) : (cOf (fmtRegImm c x nn)).val = c.toNat := by
  have h1 := nn.isLt
  have h2 := c.isLt
  have h3 := x.isLt
  rw [cOf_val, fmtRegImm_toNat]
  omega

theorem xOf_fmtRegImm (c : BitVec 4) (x : Reg) (nn : Byte) : xOf (fmtRegImm c x nn) = x := by
  have h1 := nn.isLt
  have h3 := x.isLt
  apply Fin.ext
  rw [xOf_val, fmtRegImm_toNat]
  omega

theorem nnOf_fmtRegImm (c : BitVec 4) (x : Reg) (nn : Byte) : nnOf (fmtRegImm c x nn) = nn := by
  have h1 := nn.isLt
  apply BitVec.eq_of_toNat_eq
  rw [nnOf_toNat, fmtRegImm_toNat]
  omega

theorem cOf_fmtRegReg (c : BitVec 4) (x y : Reg) (n : Fin 16) : (cOf (fmtRegReg c x y n)).val = c.toNat := by
  have h1 := n.isLt
  have h2 := c.isLt
  have h3 := x.isLt
  have h4 := y.isLt
  rw [cOf_val, fmtRegReg_toNat]
  omega

theorem xOf_fmtRegReg (c : BitVec 4) (x y : Reg) (n : Fin 16) : xOf (fmtRegReg c x y n) = x := by
  have h1 := n.isLt
  have h3 := x.isLt
  have h4 := y.isLt
  apply Fin.ext
  rw [xOf_val, fmtRegReg_toNat]
  omega

theorem yOf_fmtRegReg (c : BitVec 4) (x y : Reg) (n : Fin 16) : yOf (fmtRegReg c x y n) = y := by
  have h1 := n.isLt
  have h4 := y.isLt
  apply Fin.ext
  rw [yOf_val, fmtRegReg_toNat]
  omega

theorem nOf_fmtRegReg (c : BitVec 4) (x y : Reg) (n : Fin 16) : nOf (fmtRegReg c x y n) = n := by
  have h1 := n.isLt
  apply Fin.ext
  rw [nOf_val, fmtRegReg_toNat]
  omega

/-! A word is the format of its own fields. -/

theorem fmtAddr_of_fields (op : Word) (c : BitVec 4) (h : (cOf op).val = c.toNat) : fmtAddr c (nnnOf op) = op := by
  have h1 := op.isLt
  apply BitVec.eq_of_toNat_eq
  rw [fmtAddr_toNat, nnnOf_toNat, ← h, cOf_val]
  omega

theorem fmtRegImm_of_fields (op : Word) (c : BitVec 4) (h : (cOf op).val = c.toNat) :
    fmtRegImm c (xOf op) (nnOf op) = op := by
  have h1 := op.isLt
  apply BitVec.eq_of_toNat_eq
  rw [fmtRegImm_toNat, nnOf_toNat, ← h, cOf_val, xOf_val]
  omega

theorem fmtRegReg_of_fields (op : Word) (c : BitVec 4) (h : (cOf op).val = c.toNat) :
    fmtRegReg c (xOf op) (yOf op) (nOf op) = op := by
  have h1 := op.isLt
  apply BitVec.eq_of_toNat_eq
  rw [fmtRegReg_toNat, nOf_val, ← h, cOf_val, xOf_val, yOf_val]
  omega

/-! Decoding bytes. -/

theorem wordOfBytes_bytesOfWord (op : Word) :
    wordOfBytes (op.extractLsb' 8 8) (op.extractLsb' 0 8) = op := by
  apply BitVec.eq_of_toNat_eq
  have h := op.isLt
  unfold wordOfBytes
  rw [BitVec.toNat_append, ← Nat.shiftLeft_add_eq_or_of_lt (op.extractLsb' 0 8).isLt, Nat.shiftLeft_eq]
  simp only [BitVec.extractLsb'_toNat, Nat.shiftRight_eq_div_pow]
  omega

/-- Decoding the bytes of a word is decoding the word. -/
theorem decodeBytes_bytesOfWord (op : Word) (rest : List Byte) :
    decodeBytes (bytesOfWord op ++ rest) = (decodeWord op).map fun i => (i, rest) := by
  simp only [bytesOfWord, List.cons_append, List.nil_append, decodeBytes, wordOfBytes_bytesOfWord]
  cases decodeWord op <;> rfl

end Sys2Proof
end

