-- ==== Sys2Proof/Laws/State.lean ====
section
/-! SUPPORT. The small lemmas of State: one for each field under each named update, true by `rfl`, so that no proof
unfolds an update. -/

namespace Sys2Proof.Machine

variable (s : State)

@[simp] theorem State.writeV_v (x : Reg) (b : Byte) : (s.writeV x b).v = s.v.set x b := rfl
@[simp] theorem State.writeV_i (x : Reg) (b : Byte) : (s.writeV x b).i = s.i := rfl
@[simp] theorem State.writeV_pc (x : Reg) (b : Byte) : (s.writeV x b).pc = s.pc := rfl
@[simp] theorem State.writeV_stack (x : Reg) (b : Byte) : (s.writeV x b).stack = s.stack := rfl
@[simp] theorem State.writeV_sp (x : Reg) (b : Byte) : (s.writeV x b).sp = s.sp := rfl
@[simp] theorem State.writeV_dt (x : Reg) (b : Byte) : (s.writeV x b).dt = s.dt := rfl
@[simp] theorem State.writeV_st (x : Reg) (b : Byte) : (s.writeV x b).st = s.st := rfl
@[simp] theorem State.writeV_mem (x : Reg) (b : Byte) : (s.writeV x b).mem = s.mem := rfl
@[simp] theorem State.writeV_disp (x : Reg) (b : Byte) : (s.writeV x b).disp = s.disp := rfl
@[simp] theorem State.writeV_keys (x : Reg) (b : Byte) : (s.writeV x b).keys = s.keys := rfl
@[simp] theorem State.writeV_mode (x : Reg) (b : Byte) : (s.writeV x b).mode = s.mode := rfl
@[simp] theorem State.writeV_keyLatch (x : Reg) (b : Byte) : (s.writeV x b).keyLatch = s.keyLatch := rfl
@[simp] theorem State.writeV_fault (x : Reg) (b : Byte) : (s.writeV x b).fault = s.fault := rfl
@[simp] theorem State.writeV_dispChanged (x : Reg) (b : Byte) : (s.writeV x b).dispChanged = s.dispChanged := rfl
@[simp] theorem State.writeV_loadable (x : Reg) (b : Byte) : (s.writeV x b).loadable = s.loadable := rfl
@[simp] theorem State.writeV_cfg (x : Reg) (b : Byte) : (s.writeV x b).cfg = s.cfg := rfl
@[simp] theorem State.writeV_env (x : Reg) (b : Byte) : (s.writeV x b).env = s.env := rfl

@[simp] theorem State.writeVUpTo_v (x : Reg) (f : Nat → Byte) : (s.writeVUpTo x f).v = Vector.ofFn fun k : Reg => if k ≤ x then f k else s.v[k] := rfl
@[simp] theorem State.writeVUpTo_i (x : Reg) (f : Nat → Byte) : (s.writeVUpTo x f).i = s.i := rfl
@[simp] theorem State.writeVUpTo_pc (x : Reg) (f : Nat → Byte) : (s.writeVUpTo x f).pc = s.pc := rfl
@[simp] theorem State.writeVUpTo_stack (x : Reg) (f : Nat → Byte) : (s.writeVUpTo x f).stack = s.stack := rfl
@[simp] theorem State.writeVUpTo_sp (x : Reg) (f : Nat → Byte) : (s.writeVUpTo x f).sp = s.sp := rfl
@[simp] theorem State.writeVUpTo_dt (x : Reg) (f : Nat → Byte) : (s.writeVUpTo x f).dt = s.dt := rfl
@[simp] theorem State.writeVUpTo_st (x : Reg) (f : Nat → Byte) : (s.writeVUpTo x f).st = s.st := rfl
@[simp] theorem State.writeVUpTo_mem (x : Reg) (f : Nat → Byte) : (s.writeVUpTo x f).mem = s.mem := rfl
@[simp] theorem State.writeVUpTo_disp (x : Reg) (f : Nat → Byte) : (s.writeVUpTo x f).disp = s.disp := rfl
@[simp] theorem State.writeVUpTo_keys (x : Reg) (f : Nat → Byte) : (s.writeVUpTo x f).keys = s.keys := rfl
@[simp] theorem State.writeVUpTo_mode (x : Reg) (f : Nat → Byte) : (s.writeVUpTo x f).mode = s.mode := rfl
@[simp] theorem State.writeVUpTo_keyLatch (x : Reg) (f : Nat → Byte) : (s.writeVUpTo x f).keyLatch = s.keyLatch := rfl
@[simp] theorem State.writeVUpTo_fault (x : Reg) (f : Nat → Byte) : (s.writeVUpTo x f).fault = s.fault := rfl
@[simp] theorem State.writeVUpTo_dispChanged (x : Reg) (f : Nat → Byte) : (s.writeVUpTo x f).dispChanged = s.dispChanged := rfl
@[simp] theorem State.writeVUpTo_loadable (x : Reg) (f : Nat → Byte) : (s.writeVUpTo x f).loadable = s.loadable := rfl
@[simp] theorem State.writeVUpTo_cfg (x : Reg) (f : Nat → Byte) : (s.writeVUpTo x f).cfg = s.cfg := rfl
@[simp] theorem State.writeVUpTo_env (x : Reg) (f : Nat → Byte) : (s.writeVUpTo x f).env = s.env := rfl

@[simp] theorem State.writeVFlag_v (x : Reg) (r f : Byte) : (s.writeVFlag x r f).v = (s.v.set x r).set flagReg f := rfl
@[simp] theorem State.writeVFlag_i (x : Reg) (r f : Byte) : (s.writeVFlag x r f).i = s.i := rfl
@[simp] theorem State.writeVFlag_pc (x : Reg) (r f : Byte) : (s.writeVFlag x r f).pc = s.pc := rfl
@[simp] theorem State.writeVFlag_stack (x : Reg) (r f : Byte) : (s.writeVFlag x r f).stack = s.stack := rfl
@[simp] theorem State.writeVFlag_sp (x : Reg) (r f : Byte) : (s.writeVFlag x r f).sp = s.sp := rfl
@[simp] theorem State.writeVFlag_dt (x : Reg) (r f : Byte) : (s.writeVFlag x r f).dt = s.dt := rfl
@[simp] theorem State.writeVFlag_st (x : Reg) (r f : Byte) : (s.writeVFlag x r f).st = s.st := rfl
@[simp] theorem State.writeVFlag_mem (x : Reg) (r f : Byte) : (s.writeVFlag x r f).mem = s.mem := rfl
@[simp] theorem State.writeVFlag_disp (x : Reg) (r f : Byte) : (s.writeVFlag x r f).disp = s.disp := rfl
@[simp] theorem State.writeVFlag_keys (x : Reg) (r f : Byte) : (s.writeVFlag x r f).keys = s.keys := rfl
@[simp] theorem State.writeVFlag_mode (x : Reg) (r f : Byte) : (s.writeVFlag x r f).mode = s.mode := rfl
@[simp] theorem State.writeVFlag_keyLatch (x : Reg) (r f : Byte) : (s.writeVFlag x r f).keyLatch = s.keyLatch := rfl
@[simp] theorem State.writeVFlag_fault (x : Reg) (r f : Byte) : (s.writeVFlag x r f).fault = s.fault := rfl
@[simp] theorem State.writeVFlag_dispChanged (x : Reg) (r f : Byte) : (s.writeVFlag x r f).dispChanged = s.dispChanged := rfl
@[simp] theorem State.writeVFlag_loadable (x : Reg) (r f : Byte) : (s.writeVFlag x r f).loadable = s.loadable := rfl
@[simp] theorem State.writeVFlag_cfg (x : Reg) (r f : Byte) : (s.writeVFlag x r f).cfg = s.cfg := rfl
@[simp] theorem State.writeVFlag_env (x : Reg) (r f : Byte) : (s.writeVFlag x r f).env = s.env := rfl

@[simp] theorem State.writeI_v (w : Word) : (s.writeI w).v = s.v := rfl
@[simp] theorem State.writeI_i (w : Word) : (s.writeI w).i = w := rfl
@[simp] theorem State.writeI_pc (w : Word) : (s.writeI w).pc = s.pc := rfl
@[simp] theorem State.writeI_stack (w : Word) : (s.writeI w).stack = s.stack := rfl
@[simp] theorem State.writeI_sp (w : Word) : (s.writeI w).sp = s.sp := rfl
@[simp] theorem State.writeI_dt (w : Word) : (s.writeI w).dt = s.dt := rfl
@[simp] theorem State.writeI_st (w : Word) : (s.writeI w).st = s.st := rfl
@[simp] theorem State.writeI_mem (w : Word) : (s.writeI w).mem = s.mem := rfl
@[simp] theorem State.writeI_disp (w : Word) : (s.writeI w).disp = s.disp := rfl
@[simp] theorem State.writeI_keys (w : Word) : (s.writeI w).keys = s.keys := rfl
@[simp] theorem State.writeI_mode (w : Word) : (s.writeI w).mode = s.mode := rfl
@[simp] theorem State.writeI_keyLatch (w : Word) : (s.writeI w).keyLatch = s.keyLatch := rfl
@[simp] theorem State.writeI_fault (w : Word) : (s.writeI w).fault = s.fault := rfl
@[simp] theorem State.writeI_dispChanged (w : Word) : (s.writeI w).dispChanged = s.dispChanged := rfl
@[simp] theorem State.writeI_loadable (w : Word) : (s.writeI w).loadable = s.loadable := rfl
@[simp] theorem State.writeI_cfg (w : Word) : (s.writeI w).cfg = s.cfg := rfl
@[simp] theorem State.writeI_env (w : Word) : (s.writeI w).env = s.env := rfl

@[simp] theorem State.writeDT_v (b : Byte) : (s.writeDT b).v = s.v := rfl
@[simp] theorem State.writeDT_i (b : Byte) : (s.writeDT b).i = s.i := rfl
@[simp] theorem State.writeDT_pc (b : Byte) : (s.writeDT b).pc = s.pc := rfl
@[simp] theorem State.writeDT_stack (b : Byte) : (s.writeDT b).stack = s.stack := rfl
@[simp] theorem State.writeDT_sp (b : Byte) : (s.writeDT b).sp = s.sp := rfl
@[simp] theorem State.writeDT_dt (b : Byte) : (s.writeDT b).dt = b := rfl
@[simp] theorem State.writeDT_st (b : Byte) : (s.writeDT b).st = s.st := rfl
@[simp] theorem State.writeDT_mem (b : Byte) : (s.writeDT b).mem = s.mem := rfl
@[simp] theorem State.writeDT_disp (b : Byte) : (s.writeDT b).disp = s.disp := rfl
@[simp] theorem State.writeDT_keys (b : Byte) : (s.writeDT b).keys = s.keys := rfl
@[simp] theorem State.writeDT_mode (b : Byte) : (s.writeDT b).mode = s.mode := rfl
@[simp] theorem State.writeDT_keyLatch (b : Byte) : (s.writeDT b).keyLatch = s.keyLatch := rfl
@[simp] theorem State.writeDT_fault (b : Byte) : (s.writeDT b).fault = s.fault := rfl
@[simp] theorem State.writeDT_dispChanged (b : Byte) : (s.writeDT b).dispChanged = s.dispChanged := rfl
@[simp] theorem State.writeDT_loadable (b : Byte) : (s.writeDT b).loadable = s.loadable := rfl
@[simp] theorem State.writeDT_cfg (b : Byte) : (s.writeDT b).cfg = s.cfg := rfl
@[simp] theorem State.writeDT_env (b : Byte) : (s.writeDT b).env = s.env := rfl

@[simp] theorem State.writeST_v (b : Byte) : (s.writeST b).v = s.v := rfl
@[simp] theorem State.writeST_i (b : Byte) : (s.writeST b).i = s.i := rfl
@[simp] theorem State.writeST_pc (b : Byte) : (s.writeST b).pc = s.pc := rfl
@[simp] theorem State.writeST_stack (b : Byte) : (s.writeST b).stack = s.stack := rfl
@[simp] theorem State.writeST_sp (b : Byte) : (s.writeST b).sp = s.sp := rfl
@[simp] theorem State.writeST_dt (b : Byte) : (s.writeST b).dt = s.dt := rfl
@[simp] theorem State.writeST_st (b : Byte) : (s.writeST b).st = b := rfl
@[simp] theorem State.writeST_mem (b : Byte) : (s.writeST b).mem = s.mem := rfl
@[simp] theorem State.writeST_disp (b : Byte) : (s.writeST b).disp = s.disp := rfl
@[simp] theorem State.writeST_keys (b : Byte) : (s.writeST b).keys = s.keys := rfl
@[simp] theorem State.writeST_mode (b : Byte) : (s.writeST b).mode = s.mode := rfl
@[simp] theorem State.writeST_keyLatch (b : Byte) : (s.writeST b).keyLatch = s.keyLatch := rfl
@[simp] theorem State.writeST_fault (b : Byte) : (s.writeST b).fault = s.fault := rfl
@[simp] theorem State.writeST_dispChanged (b : Byte) : (s.writeST b).dispChanged = s.dispChanged := rfl
@[simp] theorem State.writeST_loadable (b : Byte) : (s.writeST b).loadable = s.loadable := rfl
@[simp] theorem State.writeST_cfg (b : Byte) : (s.writeST b).cfg = s.cfg := rfl
@[simp] theorem State.writeST_env (b : Byte) : (s.writeST b).env = s.env := rfl

@[simp] theorem State.writeDisp_v (d : Display) : (s.writeDisp d).v = s.v := rfl
@[simp] theorem State.writeDisp_i (d : Display) : (s.writeDisp d).i = s.i := rfl
@[simp] theorem State.writeDisp_pc (d : Display) : (s.writeDisp d).pc = s.pc := rfl
@[simp] theorem State.writeDisp_stack (d : Display) : (s.writeDisp d).stack = s.stack := rfl
@[simp] theorem State.writeDisp_sp (d : Display) : (s.writeDisp d).sp = s.sp := rfl
@[simp] theorem State.writeDisp_dt (d : Display) : (s.writeDisp d).dt = s.dt := rfl
@[simp] theorem State.writeDisp_st (d : Display) : (s.writeDisp d).st = s.st := rfl
@[simp] theorem State.writeDisp_mem (d : Display) : (s.writeDisp d).mem = s.mem := rfl
@[simp] theorem State.writeDisp_disp (d : Display) : (s.writeDisp d).disp = d := rfl
@[simp] theorem State.writeDisp_keys (d : Display) : (s.writeDisp d).keys = s.keys := rfl
@[simp] theorem State.writeDisp_mode (d : Display) : (s.writeDisp d).mode = s.mode := rfl
@[simp] theorem State.writeDisp_keyLatch (d : Display) : (s.writeDisp d).keyLatch = s.keyLatch := rfl
@[simp] theorem State.writeDisp_fault (d : Display) : (s.writeDisp d).fault = s.fault := rfl
@[simp] theorem State.writeDisp_dispChanged (d : Display) : (s.writeDisp d).dispChanged = s.dispChanged := rfl
@[simp] theorem State.writeDisp_loadable (d : Display) : (s.writeDisp d).loadable = s.loadable := rfl
@[simp] theorem State.writeDisp_cfg (d : Display) : (s.writeDisp d).cfg = s.cfg := rfl
@[simp] theorem State.writeDisp_env (d : Display) : (s.writeDisp d).env = s.env := rfl

@[simp] theorem State.writeKey_v (c : KeyCode) (p : Bool) : (s.writeKey c p).v = s.v := rfl
@[simp] theorem State.writeKey_i (c : KeyCode) (p : Bool) : (s.writeKey c p).i = s.i := rfl
@[simp] theorem State.writeKey_pc (c : KeyCode) (p : Bool) : (s.writeKey c p).pc = s.pc := rfl
@[simp] theorem State.writeKey_stack (c : KeyCode) (p : Bool) : (s.writeKey c p).stack = s.stack := rfl
@[simp] theorem State.writeKey_sp (c : KeyCode) (p : Bool) : (s.writeKey c p).sp = s.sp := rfl
@[simp] theorem State.writeKey_dt (c : KeyCode) (p : Bool) : (s.writeKey c p).dt = s.dt := rfl
@[simp] theorem State.writeKey_st (c : KeyCode) (p : Bool) : (s.writeKey c p).st = s.st := rfl
@[simp] theorem State.writeKey_mem (c : KeyCode) (p : Bool) : (s.writeKey c p).mem = s.mem := rfl
@[simp] theorem State.writeKey_disp (c : KeyCode) (p : Bool) : (s.writeKey c p).disp = s.disp := rfl
@[simp] theorem State.writeKey_keys (c : KeyCode) (p : Bool) : (s.writeKey c p).keys = s.keys.set c p := rfl
@[simp] theorem State.writeKey_mode (c : KeyCode) (p : Bool) : (s.writeKey c p).mode = s.mode := rfl
@[simp] theorem State.writeKey_keyLatch (c : KeyCode) (p : Bool) : (s.writeKey c p).keyLatch = s.keyLatch := rfl
@[simp] theorem State.writeKey_fault (c : KeyCode) (p : Bool) : (s.writeKey c p).fault = s.fault := rfl
@[simp] theorem State.writeKey_dispChanged (c : KeyCode) (p : Bool) : (s.writeKey c p).dispChanged = s.dispChanged := rfl
@[simp] theorem State.writeKey_loadable (c : KeyCode) (p : Bool) : (s.writeKey c p).loadable = s.loadable := rfl
@[simp] theorem State.writeKey_cfg (c : KeyCode) (p : Bool) : (s.writeKey c p).cfg = s.cfg := rfl
@[simp] theorem State.writeKey_env (c : KeyCode) (p : Bool) : (s.writeKey c p).env = s.env := rfl

@[simp] theorem State.writeLatch_v (l : Option KeyCode) : (s.writeLatch l).v = s.v := rfl
@[simp] theorem State.writeLatch_i (l : Option KeyCode) : (s.writeLatch l).i = s.i := rfl
@[simp] theorem State.writeLatch_pc (l : Option KeyCode) : (s.writeLatch l).pc = s.pc := rfl
@[simp] theorem State.writeLatch_stack (l : Option KeyCode) : (s.writeLatch l).stack = s.stack := rfl
@[simp] theorem State.writeLatch_sp (l : Option KeyCode) : (s.writeLatch l).sp = s.sp := rfl
@[simp] theorem State.writeLatch_dt (l : Option KeyCode) : (s.writeLatch l).dt = s.dt := rfl
@[simp] theorem State.writeLatch_st (l : Option KeyCode) : (s.writeLatch l).st = s.st := rfl
@[simp] theorem State.writeLatch_mem (l : Option KeyCode) : (s.writeLatch l).mem = s.mem := rfl
@[simp] theorem State.writeLatch_disp (l : Option KeyCode) : (s.writeLatch l).disp = s.disp := rfl
@[simp] theorem State.writeLatch_keys (l : Option KeyCode) : (s.writeLatch l).keys = s.keys := rfl
@[simp] theorem State.writeLatch_mode (l : Option KeyCode) : (s.writeLatch l).mode = s.mode := rfl
@[simp] theorem State.writeLatch_keyLatch (l : Option KeyCode) : (s.writeLatch l).keyLatch = l := rfl
@[simp] theorem State.writeLatch_fault (l : Option KeyCode) : (s.writeLatch l).fault = s.fault := rfl
@[simp] theorem State.writeLatch_dispChanged (l : Option KeyCode) : (s.writeLatch l).dispChanged = s.dispChanged := rfl
@[simp] theorem State.writeLatch_loadable (l : Option KeyCode) : (s.writeLatch l).loadable = s.loadable := rfl
@[simp] theorem State.writeLatch_cfg (l : Option KeyCode) : (s.writeLatch l).cfg = s.cfg := rfl
@[simp] theorem State.writeLatch_env (l : Option KeyCode) : (s.writeLatch l).env = s.env := rfl

@[simp] theorem State.park_v (x : Reg) : (s.park x).v = s.v := rfl
@[simp] theorem State.park_i (x : Reg) : (s.park x).i = s.i := rfl
@[simp] theorem State.park_pc (x : Reg) : (s.park x).pc = s.pc := rfl
@[simp] theorem State.park_stack (x : Reg) : (s.park x).stack = s.stack := rfl
@[simp] theorem State.park_sp (x : Reg) : (s.park x).sp = s.sp := rfl
@[simp] theorem State.park_dt (x : Reg) : (s.park x).dt = s.dt := rfl
@[simp] theorem State.park_st (x : Reg) : (s.park x).st = s.st := rfl
@[simp] theorem State.park_mem (x : Reg) : (s.park x).mem = s.mem := rfl
@[simp] theorem State.park_disp (x : Reg) : (s.park x).disp = s.disp := rfl
@[simp] theorem State.park_keys (x : Reg) : (s.park x).keys = s.keys := rfl
@[simp] theorem State.park_mode (x : Reg) : (s.park x).mode = .waitingForKey x := rfl
@[simp] theorem State.park_keyLatch (x : Reg) : (s.park x).keyLatch = none := rfl
@[simp] theorem State.park_fault (x : Reg) : (s.park x).fault = s.fault := rfl
@[simp] theorem State.park_dispChanged (x : Reg) : (s.park x).dispChanged = s.dispChanged := rfl
@[simp] theorem State.park_loadable (x : Reg) : (s.park x).loadable = s.loadable := rfl
@[simp] theorem State.park_cfg (x : Reg) : (s.park x).cfg = s.cfg := rfl
@[simp] theorem State.park_env (x : Reg) : (s.park x).env = s.env := rfl

@[simp] theorem State.unpark_v : (s.unpark).v = s.v := rfl
@[simp] theorem State.unpark_i : (s.unpark).i = s.i := rfl
@[simp] theorem State.unpark_pc : (s.unpark).pc = s.pc := rfl
@[simp] theorem State.unpark_stack : (s.unpark).stack = s.stack := rfl
@[simp] theorem State.unpark_sp : (s.unpark).sp = s.sp := rfl
@[simp] theorem State.unpark_dt : (s.unpark).dt = s.dt := rfl
@[simp] theorem State.unpark_st : (s.unpark).st = s.st := rfl
@[simp] theorem State.unpark_mem : (s.unpark).mem = s.mem := rfl
@[simp] theorem State.unpark_disp : (s.unpark).disp = s.disp := rfl
@[simp] theorem State.unpark_keys : (s.unpark).keys = s.keys := rfl
@[simp] theorem State.unpark_mode : (s.unpark).mode = .running := rfl
@[simp] theorem State.unpark_keyLatch : (s.unpark).keyLatch = none := rfl
@[simp] theorem State.unpark_fault : (s.unpark).fault = s.fault := rfl
@[simp] theorem State.unpark_dispChanged : (s.unpark).dispChanged = s.dispChanged := rfl
@[simp] theorem State.unpark_loadable : (s.unpark).loadable = s.loadable := rfl
@[simp] theorem State.unpark_cfg : (s.unpark).cfg = s.cfg := rfl
@[simp] theorem State.unpark_env : (s.unpark).env = s.env := rfl

@[simp] theorem State.closeLoad_v : (s.closeLoad).v = s.v := rfl
@[simp] theorem State.closeLoad_i : (s.closeLoad).i = s.i := rfl
@[simp] theorem State.closeLoad_pc : (s.closeLoad).pc = s.pc := rfl
@[simp] theorem State.closeLoad_stack : (s.closeLoad).stack = s.stack := rfl
@[simp] theorem State.closeLoad_sp : (s.closeLoad).sp = s.sp := rfl
@[simp] theorem State.closeLoad_dt : (s.closeLoad).dt = s.dt := rfl
@[simp] theorem State.closeLoad_st : (s.closeLoad).st = s.st := rfl
@[simp] theorem State.closeLoad_mem : (s.closeLoad).mem = s.mem := rfl
@[simp] theorem State.closeLoad_disp : (s.closeLoad).disp = s.disp := rfl
@[simp] theorem State.closeLoad_keys : (s.closeLoad).keys = s.keys := rfl
@[simp] theorem State.closeLoad_mode : (s.closeLoad).mode = s.mode := rfl
@[simp] theorem State.closeLoad_keyLatch : (s.closeLoad).keyLatch = s.keyLatch := rfl
@[simp] theorem State.closeLoad_fault : (s.closeLoad).fault = s.fault := rfl
@[simp] theorem State.closeLoad_dispChanged : (s.closeLoad).dispChanged = s.dispChanged := rfl
@[simp] theorem State.closeLoad_loadable : (s.closeLoad).loadable = false := rfl
@[simp] theorem State.closeLoad_cfg : (s.closeLoad).cfg = s.cfg := rfl
@[simp] theorem State.closeLoad_env : (s.closeLoad).env = s.env := rfl

@[simp] theorem State.clearFault_v : (s.clearFault).v = s.v := rfl
@[simp] theorem State.clearFault_i : (s.clearFault).i = s.i := rfl
@[simp] theorem State.clearFault_pc : (s.clearFault).pc = s.pc := rfl
@[simp] theorem State.clearFault_stack : (s.clearFault).stack = s.stack := rfl
@[simp] theorem State.clearFault_sp : (s.clearFault).sp = s.sp := rfl
@[simp] theorem State.clearFault_dt : (s.clearFault).dt = s.dt := rfl
@[simp] theorem State.clearFault_st : (s.clearFault).st = s.st := rfl
@[simp] theorem State.clearFault_mem : (s.clearFault).mem = s.mem := rfl
@[simp] theorem State.clearFault_disp : (s.clearFault).disp = s.disp := rfl
@[simp] theorem State.clearFault_keys : (s.clearFault).keys = s.keys := rfl
@[simp] theorem State.clearFault_mode : (s.clearFault).mode = s.mode := rfl
@[simp] theorem State.clearFault_keyLatch : (s.clearFault).keyLatch = s.keyLatch := rfl
@[simp] theorem State.clearFault_fault : (s.clearFault).fault = none := rfl
@[simp] theorem State.clearFault_dispChanged : (s.clearFault).dispChanged = s.dispChanged := rfl
@[simp] theorem State.clearFault_loadable : (s.clearFault).loadable = s.loadable := rfl
@[simp] theorem State.clearFault_cfg : (s.clearFault).cfg = s.cfg := rfl
@[simp] theorem State.clearFault_env : (s.clearFault).env = s.env := rfl

@[simp] theorem State.emit_v (o : Output) : (s.emit o).v = s.v := rfl
@[simp] theorem State.emit_i (o : Output) : (s.emit o).i = s.i := rfl
@[simp] theorem State.emit_pc (o : Output) : (s.emit o).pc = s.pc := rfl
@[simp] theorem State.emit_stack (o : Output) : (s.emit o).stack = s.stack := rfl
@[simp] theorem State.emit_sp (o : Output) : (s.emit o).sp = s.sp := rfl
@[simp] theorem State.emit_dt (o : Output) : (s.emit o).dt = s.dt := rfl
@[simp] theorem State.emit_st (o : Output) : (s.emit o).st = s.st := rfl
@[simp] theorem State.emit_mem (o : Output) : (s.emit o).mem = s.mem := rfl
@[simp] theorem State.emit_disp (o : Output) : (s.emit o).disp = s.disp := rfl
@[simp] theorem State.emit_keys (o : Output) : (s.emit o).keys = s.keys := rfl
@[simp] theorem State.emit_mode (o : Output) : (s.emit o).mode = s.mode := rfl
@[simp] theorem State.emit_keyLatch (o : Output) : (s.emit o).keyLatch = s.keyLatch := rfl
@[simp] theorem State.emit_fault (o : Output) : (s.emit o).fault = s.fault := rfl
@[simp] theorem State.emit_dispChanged (o : Output) : (s.emit o).dispChanged = s.dispChanged := rfl
@[simp] theorem State.emit_loadable (o : Output) : (s.emit o).loadable = s.loadable := rfl
@[simp] theorem State.emit_cfg (o : Output) : (s.emit o).cfg = s.cfg := rfl
@[simp] theorem State.emit_env (o : Output) : (s.emit o).env = { s.env with outputs := s.env.outputs ++ [o] } := rfl

@[simp] theorem State.setSchedule_v (es : List Event) : (s.setSchedule es).v = s.v := rfl
@[simp] theorem State.setSchedule_i (es : List Event) : (s.setSchedule es).i = s.i := rfl
@[simp] theorem State.setSchedule_pc (es : List Event) : (s.setSchedule es).pc = s.pc := rfl
@[simp] theorem State.setSchedule_stack (es : List Event) : (s.setSchedule es).stack = s.stack := rfl
@[simp] theorem State.setSchedule_sp (es : List Event) : (s.setSchedule es).sp = s.sp := rfl
@[simp] theorem State.setSchedule_dt (es : List Event) : (s.setSchedule es).dt = s.dt := rfl
@[simp] theorem State.setSchedule_st (es : List Event) : (s.setSchedule es).st = s.st := rfl
@[simp] theorem State.setSchedule_mem (es : List Event) : (s.setSchedule es).mem = s.mem := rfl
@[simp] theorem State.setSchedule_disp (es : List Event) : (s.setSchedule es).disp = s.disp := rfl
@[simp] theorem State.setSchedule_keys (es : List Event) : (s.setSchedule es).keys = s.keys := rfl
@[simp] theorem State.setSchedule_mode (es : List Event) : (s.setSchedule es).mode = s.mode := rfl
@[simp] theorem State.setSchedule_keyLatch (es : List Event) : (s.setSchedule es).keyLatch = s.keyLatch := rfl
@[simp] theorem State.setSchedule_fault (es : List Event) : (s.setSchedule es).fault = s.fault := rfl
@[simp] theorem State.setSchedule_dispChanged (es : List Event) : (s.setSchedule es).dispChanged = s.dispChanged := rfl
@[simp] theorem State.setSchedule_loadable (es : List Event) : (s.setSchedule es).loadable = s.loadable := rfl
@[simp] theorem State.setSchedule_cfg (es : List Event) : (s.setSchedule es).cfg = s.cfg := rfl
@[simp] theorem State.setSchedule_env (es : List Event) : (s.setSchedule es).env = { s.env with schedule := es } := rfl

@[simp] theorem State.push_v (h : s.sp.val < 16) (ret : Word) : (s.push h ret).v = s.v := rfl
@[simp] theorem State.push_i (h : s.sp.val < 16) (ret : Word) : (s.push h ret).i = s.i := rfl
@[simp] theorem State.push_pc (h : s.sp.val < 16) (ret : Word) : (s.push h ret).pc = s.pc := rfl
@[simp] theorem State.push_stack (h : s.sp.val < 16) (ret : Word) : (s.push h ret).stack = s.stack.set s.sp.val ret h := rfl
@[simp] theorem State.push_sp (h : s.sp.val < 16) (ret : Word) : (s.push h ret).sp = ⟨s.sp.val + 1, Nat.succ_lt_succ h⟩ := rfl
@[simp] theorem State.push_dt (h : s.sp.val < 16) (ret : Word) : (s.push h ret).dt = s.dt := rfl
@[simp] theorem State.push_st (h : s.sp.val < 16) (ret : Word) : (s.push h ret).st = s.st := rfl
@[simp] theorem State.push_mem (h : s.sp.val < 16) (ret : Word) : (s.push h ret).mem = s.mem := rfl
@[simp] theorem State.push_disp (h : s.sp.val < 16) (ret : Word) : (s.push h ret).disp = s.disp := rfl
@[simp] theorem State.push_keys (h : s.sp.val < 16) (ret : Word) : (s.push h ret).keys = s.keys := rfl
@[simp] theorem State.push_mode (h : s.sp.val < 16) (ret : Word) : (s.push h ret).mode = s.mode := rfl
@[simp] theorem State.push_keyLatch (h : s.sp.val < 16) (ret : Word) : (s.push h ret).keyLatch = s.keyLatch := rfl
@[simp] theorem State.push_fault (h : s.sp.val < 16) (ret : Word) : (s.push h ret).fault = s.fault := rfl
@[simp] theorem State.push_dispChanged (h : s.sp.val < 16) (ret : Word) : (s.push h ret).dispChanged = s.dispChanged := rfl
@[simp] theorem State.push_loadable (h : s.sp.val < 16) (ret : Word) : (s.push h ret).loadable = s.loadable := rfl
@[simp] theorem State.push_cfg (h : s.sp.val < 16) (ret : Word) : (s.push h ret).cfg = s.cfg := rfl
@[simp] theorem State.push_env (h : s.sp.val < 16) (ret : Word) : (s.push h ret).env = s.env := rfl

@[simp] theorem State.pop_v : (s.pop).v = s.v := rfl
@[simp] theorem State.pop_i : (s.pop).i = s.i := rfl
@[simp] theorem State.pop_pc : (s.pop).pc = s.pc := rfl
@[simp] theorem State.pop_stack : (s.pop).stack = s.stack := rfl
@[simp] theorem State.pop_sp : (s.pop).sp = ⟨s.sp.val - 1, Nat.lt_of_le_of_lt (Nat.sub_le _ _) s.sp.isLt⟩ := rfl
@[simp] theorem State.pop_dt : (s.pop).dt = s.dt := rfl
@[simp] theorem State.pop_st : (s.pop).st = s.st := rfl
@[simp] theorem State.pop_mem : (s.pop).mem = s.mem := rfl
@[simp] theorem State.pop_disp : (s.pop).disp = s.disp := rfl
@[simp] theorem State.pop_keys : (s.pop).keys = s.keys := rfl
@[simp] theorem State.pop_mode : (s.pop).mode = s.mode := rfl
@[simp] theorem State.pop_keyLatch : (s.pop).keyLatch = s.keyLatch := rfl
@[simp] theorem State.pop_fault : (s.pop).fault = s.fault := rfl
@[simp] theorem State.pop_dispChanged : (s.pop).dispChanged = s.dispChanged := rfl
@[simp] theorem State.pop_loadable : (s.pop).loadable = s.loadable := rfl
@[simp] theorem State.pop_cfg : (s.pop).cfg = s.cfg := rfl
@[simp] theorem State.pop_env : (s.pop).env = s.env := rfl

@[simp] theorem State.memWriteList_v (a : Nat) (bs : List Byte) : (s.memWriteList a bs).v = s.v := rfl
@[simp] theorem State.memWriteList_i (a : Nat) (bs : List Byte) : (s.memWriteList a bs).i = s.i := rfl
@[simp] theorem State.memWriteList_pc (a : Nat) (bs : List Byte) : (s.memWriteList a bs).pc = s.pc := rfl
@[simp] theorem State.memWriteList_stack (a : Nat) (bs : List Byte) : (s.memWriteList a bs).stack = s.stack := rfl
@[simp] theorem State.memWriteList_sp (a : Nat) (bs : List Byte) : (s.memWriteList a bs).sp = s.sp := rfl
@[simp] theorem State.memWriteList_dt (a : Nat) (bs : List Byte) : (s.memWriteList a bs).dt = s.dt := rfl
@[simp] theorem State.memWriteList_st (a : Nat) (bs : List Byte) : (s.memWriteList a bs).st = s.st := rfl
@[simp] theorem State.memWriteList_mem (a : Nat) (bs : List Byte) : (s.memWriteList a bs).mem = Memory.writeList s.cfg.font s.mem a bs := rfl
@[simp] theorem State.memWriteList_disp (a : Nat) (bs : List Byte) : (s.memWriteList a bs).disp = s.disp := rfl
@[simp] theorem State.memWriteList_keys (a : Nat) (bs : List Byte) : (s.memWriteList a bs).keys = s.keys := rfl
@[simp] theorem State.memWriteList_mode (a : Nat) (bs : List Byte) : (s.memWriteList a bs).mode = s.mode := rfl
@[simp] theorem State.memWriteList_keyLatch (a : Nat) (bs : List Byte) : (s.memWriteList a bs).keyLatch = s.keyLatch := rfl
@[simp] theorem State.memWriteList_fault (a : Nat) (bs : List Byte) : (s.memWriteList a bs).fault = s.fault := rfl
@[simp] theorem State.memWriteList_dispChanged (a : Nat) (bs : List Byte) : (s.memWriteList a bs).dispChanged = s.dispChanged := rfl
@[simp] theorem State.memWriteList_loadable (a : Nat) (bs : List Byte) : (s.memWriteList a bs).loadable = s.loadable := rfl
@[simp] theorem State.memWriteList_cfg (a : Nat) (bs : List Byte) : (s.memWriteList a bs).cfg = s.cfg := rfl
@[simp] theorem State.memWriteList_env (a : Nat) (bs : List Byte) : (s.memWriteList a bs).env = s.env := rfl

@[simp] theorem State.faulted_v (k : FaultKind) (op : Word) : (s.faulted k op).v = s.v := rfl
@[simp] theorem State.faulted_i (k : FaultKind) (op : Word) : (s.faulted k op).i = s.i := rfl
@[simp] theorem State.faulted_pc (k : FaultKind) (op : Word) : (s.faulted k op).pc = s.pc := rfl
@[simp] theorem State.faulted_stack (k : FaultKind) (op : Word) : (s.faulted k op).stack = s.stack := rfl
@[simp] theorem State.faulted_sp (k : FaultKind) (op : Word) : (s.faulted k op).sp = s.sp := rfl
@[simp] theorem State.faulted_dt (k : FaultKind) (op : Word) : (s.faulted k op).dt = s.dt := rfl
@[simp] theorem State.faulted_st (k : FaultKind) (op : Word) : (s.faulted k op).st = s.st := rfl
@[simp] theorem State.faulted_mem (k : FaultKind) (op : Word) : (s.faulted k op).mem = s.mem := rfl
@[simp] theorem State.faulted_disp (k : FaultKind) (op : Word) : (s.faulted k op).disp = s.disp := rfl
@[simp] theorem State.faulted_keys (k : FaultKind) (op : Word) : (s.faulted k op).keys = s.keys := rfl
@[simp] theorem State.faulted_mode (k : FaultKind) (op : Word) : (s.faulted k op).mode = s.mode := rfl
@[simp] theorem State.faulted_keyLatch (k : FaultKind) (op : Word) : (s.faulted k op).keyLatch = s.keyLatch := rfl
@[simp] theorem State.faulted_fault (k : FaultKind) (op : Word) : (s.faulted k op).fault = some ⟨k, s.pc, op⟩ := rfl
@[simp] theorem State.faulted_dispChanged (k : FaultKind) (op : Word) : (s.faulted k op).dispChanged = false := rfl
@[simp] theorem State.faulted_loadable (k : FaultKind) (op : Word) : (s.faulted k op).loadable = s.loadable := rfl
@[simp] theorem State.faulted_cfg (k : FaultKind) (op : Word) : (s.faulted k op).cfg = s.cfg := rfl
@[simp] theorem State.faulted_env (k : FaultKind) (op : Word) : (s.faulted k op).env = s.env := rfl

/-! Sampling the random port touches the world only. -/

@[simp] theorem State.rndTaken_v : s.rndTaken.v = s.v := by unfold State.rndTaken; split <;> rfl
@[simp] theorem State.rndTaken_i : s.rndTaken.i = s.i := by unfold State.rndTaken; split <;> rfl
@[simp] theorem State.rndTaken_pc : s.rndTaken.pc = s.pc := by unfold State.rndTaken; split <;> rfl
@[simp] theorem State.rndTaken_stack : s.rndTaken.stack = s.stack := by unfold State.rndTaken; split <;> rfl
@[simp] theorem State.rndTaken_sp : s.rndTaken.sp = s.sp := by unfold State.rndTaken; split <;> rfl
@[simp] theorem State.rndTaken_dt : s.rndTaken.dt = s.dt := by unfold State.rndTaken; split <;> rfl
@[simp] theorem State.rndTaken_st : s.rndTaken.st = s.st := by unfold State.rndTaken; split <;> rfl
@[simp] theorem State.rndTaken_mem : s.rndTaken.mem = s.mem := by unfold State.rndTaken; split <;> rfl
@[simp] theorem State.rndTaken_disp : s.rndTaken.disp = s.disp := by unfold State.rndTaken; split <;> rfl
@[simp] theorem State.rndTaken_keys : s.rndTaken.keys = s.keys := by unfold State.rndTaken; split <;> rfl
@[simp] theorem State.rndTaken_mode : s.rndTaken.mode = s.mode := by unfold State.rndTaken; split <;> rfl
@[simp] theorem State.rndTaken_keyLatch : s.rndTaken.keyLatch = s.keyLatch := by unfold State.rndTaken; split <;> rfl
@[simp] theorem State.rndTaken_fault : s.rndTaken.fault = s.fault := by unfold State.rndTaken; split <;> rfl
@[simp] theorem State.rndTaken_dispChanged : s.rndTaken.dispChanged = s.dispChanged := by unfold State.rndTaken; split <;> rfl
@[simp] theorem State.rndTaken_loadable : s.rndTaken.loadable = s.loadable := by unfold State.rndTaken; split <;> rfl
@[simp] theorem State.rndTaken_cfg : s.rndTaken.cfg = s.cfg := by unfold State.rndTaken; split <;> rfl

@[simp] theorem State.rndTaken_schedule : s.rndTaken.env.schedule = s.env.schedule := by
  unfold State.rndTaken; split <;> rfl

@[simp] theorem State.rndTaken_outputs : s.rndTaken.env.outputs = s.env.outputs := by
  unfold State.rndTaken; split <;> rfl

/-! Registers: a read after a write. -/

@[simp] theorem State.readV_writeV_same (x : Reg) (b : Byte) : (s.writeV x b).readV x = b := by
  simp [State.readV, State.writeV]

theorem State.readV_writeV_other (x y : Reg) (b : Byte) (h : x ≠ y) : (s.writeV x b).readV y = s.readV y := by
  have hne : x.val ≠ y.val := fun e => h (Fin.ext e)
  simp [State.readV, State.writeV, hne]

theorem State.readV_writeVUpTo (x k : Reg) (f : Nat → Byte) :
    (s.writeVUpTo x f).readV k = if k ≤ x then f k else s.readV k := by
  simp [State.readV, State.writeVUpTo]

theorem State.readV_writeVFlag_flag (x : Reg) (r f : Byte) : (s.writeVFlag x r f).readV flagReg = f := by
  simp [State.readV]

theorem State.readV_writeVFlag_dest (x : Reg) (r f : Byte) (h : x ≠ flagReg) : (s.writeVFlag x r f).readV x = r := by
  rw [State.writeVFlag, State.readV_writeV_other _ _ _ _ h.symm, State.readV_writeV_same]

/-! What `State.reset` carries is spelled in `State.resetWith`. -/

theorem resetEvent_keeps_world : (resetEvent s).cfg = s.cfg ∧ (resetEvent s).env = s.env := ⟨rfl, rfl⟩

end Sys2Proof.Machine
end

