-- ==== Sys2Proof/Laws/Memory.lean ====
section
/-! SUPPORT. Memory: a read after a write, and that every operation keeps the canonical form. -/

namespace Sys2Proof.Machine

variable (font : Font)

theorem Memory.lookup_insert (m : Memory) (a : Nat) (b : Byte) (c : Nat) :
    Memory.lookup (Memory.insert m a b) c = if a = c then some b else Memory.lookup m c := by
  induction m with
  | nil => simp [Memory.insert, Memory.lookup]
  | cons e rest ih =>
    obtain ⟨k, d⟩ := e
    by_cases hlt : a < k
    · simp [Memory.insert, hlt, Memory.lookup]
    · by_cases hka : k = a
      · subst hka
        by_cases hkc : k = c <;> simp [Memory.insert, Memory.lookup, hkc]
      · by_cases hkc : k = c
        · subst hkc
          have : a ≠ k := fun h => hka h.symm
          simp [Memory.insert, hlt, hka, Memory.lookup, this]
        · simp [Memory.insert, hlt, hka, Memory.lookup, hkc, ih]

theorem Memory.lookup_erase (m : Memory) (a c : Nat) :
    Memory.lookup (Memory.erase m a) c = if a = c then none else Memory.lookup m c := by
  induction m with
  | nil => simp [Memory.erase, Memory.lookup]
  | cons e rest ih =>
    obtain ⟨k, d⟩ := e
    unfold Memory.erase at ih ⊢
    by_cases hka : k = a
    · subst hka
      by_cases hkc : k = c
      · subst hkc; simpa using ih
      · simpa [Memory.lookup, hkc] using ih
    · by_cases hkc : k = c
      · subst hkc
        have : a ≠ k := fun h => hka h.symm
        simp [hka, Memory.lookup, this]
      · simp [hka, Memory.lookup, hkc, ih]

/-- A read after a write: the byte written at its address, the old byte everywhere else. -/
theorem Memory.read_write (m : Memory) (a : Nat) (b : Byte) (c : Nat) :
    Memory.read font (Memory.write font m a b) c = if a = c then b else Memory.read font m c := by
  unfold Memory.read Memory.write
  by_cases hb : b = Memory.unlisted font a
  · by_cases hac : a = c
    · subst hac; simp [hb, Memory.lookup_erase]
    · simp [hb, Memory.lookup_erase, hac]
  · rw [if_neg hb, Memory.lookup_insert]
    by_cases hac : a = c <;> simp [hac]

/-- A read after a block write: byte `c - a` of the block inside it, the old byte outside it. -/
theorem Memory.read_writeList (m : Memory) (a : Nat) (bs : List Byte) (c : Nat) :
    Memory.read font (Memory.writeList font m a bs) c =
      if h : a ≤ c ∧ c < a + bs.length then bs[c - a]'(by omega) else Memory.read font m c := by
  induction bs generalizing m a with
  | nil =>
    have : ¬ (a ≤ c ∧ c < a + ([] : List Byte).length) := by simp
    rw [dif_neg this]; rfl
  | cons b rest ih =>
    rw [Memory.writeList, ih, Memory.read_write]
    by_cases hac : a = c
    · subst hac
      have h1 : ¬ (a + 1 ≤ a ∧ a < a + 1 + rest.length) := by omega
      have h2 : a ≤ a ∧ a < a + (b :: rest).length := by simp
      rw [dif_neg h1, dif_pos h2]
      simp
    · by_cases hin : a + 1 ≤ c ∧ c < a + 1 + rest.length
      · have h2 : a ≤ c ∧ c < a + (b :: rest).length := by simp; omega
        have hsub : c - a = (c - (a + 1)) + 1 := by omega
        rw [dif_pos hin, dif_pos h2]
        simp [hsub]
      · have h2 : ¬ (a ≤ c ∧ c < a + (b :: rest).length) := by simp; omega
        rw [dif_neg hin, dif_neg h2, if_neg hac]

/-! ## The canonical form -/

theorem Memory.wf_iff (m : Memory) : Memory.wf font m = true ↔
    (m.Pairwise fun c d => c.1 < d.1) ∧ ∀ c ∈ m, c.1 < memSize ∧ c.2 ≠ Memory.unlisted font c.1 := by
  simp [Memory.wf, List.all_eq_true]

theorem Memory.nil_wf : Memory.wf font [] = true := by simp [Memory.wf]

theorem Memory.mem_insert (m : Memory) (a : Nat) (b : Byte) (c : Host.Cell) (h : c ∈ Memory.insert m a b) :
    c = (a, b) ∨ c ∈ m := by
  induction m with
  | nil => exact Or.inl (by simpa [Memory.insert] using h)
  | cons e rest ih =>
    obtain ⟨k, d⟩ := e
    unfold Memory.insert at h
    split at h
    · simpa using h
    · split at h
      · rcases List.mem_cons.mp h with h | h
        · exact Or.inl h
        · exact Or.inr (List.mem_cons_of_mem _ h)
      · rcases List.mem_cons.mp h with h | h
        · exact Or.inr (by simp [h])
        · exact (ih h).imp id (List.mem_cons_of_mem _)

theorem Memory.insert_rising (m : Memory) (a : Nat) (b : Byte) (h : m.Pairwise fun c d => c.1 < d.1) :
    (Memory.insert m a b).Pairwise fun c d => c.1 < d.1 := by
  induction m with
  | nil => simp [Memory.insert]
  | cons e rest ih =>
    obtain ⟨k, d⟩ := e
    obtain ⟨hk, hrest⟩ := List.pairwise_cons.mp h
    unfold Memory.insert
    split
    · rename_i hlt
      refine List.pairwise_cons.mpr ⟨fun c hc => ?_, h⟩
      rcases List.mem_cons.mp hc with rfl | hc
      · exact hlt
      · exact Nat.lt_trans hlt (hk c hc)
    · split
      · rename_i hka
        exact List.pairwise_cons.mpr ⟨fun c hc => by have := hk c hc; simp only at this; omega, hrest⟩
      · refine List.pairwise_cons.mpr ⟨fun c hc => ?_, ih hrest⟩
        rcases Memory.mem_insert rest a b c hc with rfl | hc
        · simp only; omega
        · exact hk c hc

theorem Memory.write_wf (m : Memory) (a : Nat) (b : Byte) (ha : a < memSize) (h : Memory.wf font m = true) :
    Memory.wf font (Memory.write font m a b) = true := by
  rw [Memory.wf_iff] at h ⊢
  unfold Memory.write
  split
  · exact ⟨h.1.filter _, fun c hc => h.2 c (List.mem_of_mem_filter hc)⟩
  · rename_i hb
    refine ⟨Memory.insert_rising m a b h.1, fun c hc => ?_⟩
    rcases Memory.mem_insert m a b c hc with rfl | hc
    · exact ⟨ha, hb⟩
    · exact h.2 c hc

theorem Memory.writeList_wf (m : Memory) (a : Nat) (bs : List Byte) (ha : a + bs.length ≤ memSize)
    (h : Memory.wf font m = true) : Memory.wf font (Memory.writeList font m a bs) = true := by
  induction bs generalizing m a with
  | nil => exact h
  | cons b rest ih =>
    simp only [List.length_cons] at ha
    exact ih _ _ (by omega) (Memory.write_wf font m a b (by omega) h)

/-! ## Memory of the machine -/

theorem State.memRead_memWriteList (s : State) (a : Nat) (bs : List Byte) (c : Nat) :
    (s.memWriteList a bs).memRead c =
      if h : a ≤ c ∧ c < a + bs.length then bs[c - a]'(by omega) else s.memRead c :=
  Memory.read_writeList _ _ _ _ _

theorem State.memRead_congr (s t : State) (hm : t.mem = s.mem) (hc : t.cfg = s.cfg) (a : Nat) :
    t.memRead a = s.memRead a := by
  simp only [State.memRead, hm, hc]

theorem State.memReadList_length (s : State) (a n : Nat) : (s.memReadList a n).length = n := by
  simp [State.memReadList]

theorem State.memReadList_get (s : State) (a n k : Nat) (h : k < (s.memReadList a n).length) :
    (s.memReadList a n)[k] = s.memRead (a + k) := by
  simp [State.memReadList]

theorem State.reset_memRead (cfg : Config) (env : Env) (a : Nat) :
    (State.resetWith cfg env).memRead a = Memory.unlisted cfg.font a := by
  simp [State.memRead, State.resetWith, Memory.read, Memory.lookup]

theorem State.reset_mem_wf : Memory.wf State.reset.cfg.font State.reset.mem = true := Memory.nil_wf _

end Sys2Proof.Machine
end

