-- ==== Sys2Proof/Laws/Ops.lean ====
section
/-! SUPPORT. For each shared operation, once, everything it can do. -/

namespace Sys2Proof.Machine

/-! ## `CheckPc` (R94) -/

theorem checkPc_ok (t : Nat) (he : t % 2 = 0) (hr : t ≤ 0xFFE) : checkPc t = .ok (BitVec.ofNat 16 t) := by
  unfold checkPc
  rw [if_neg (by omega), if_neg (by omega)]

theorem checkPc_outOfRange (t : Nat) (h : 0xFFE < t) : checkPc t = .error .pcOutOfRange := by
  unfold checkPc
  rw [if_pos h]

theorem checkPc_misaligned (t : Nat) (ho : t % 2 = 1) (hr : t ≤ 0xFFE) : checkPc t = .error .pcMisaligned := by
  unfold checkPc
  rw [if_neg (by omega), if_pos ho]

/-- What `CheckPc` lets through is the number it was given, and a legal `pc`. -/
theorem checkPc_eq_ok (t : Nat) (p : Word) (h : checkPc t = .ok p) : t % 2 = 0 ∧ t ≤ 0xFFE ∧ p = BitVec.ofNat 16 t := by
  unfold checkPc at h
  split at h
  · cases h
  · split at h
    · cases h
    · injection h with h
      exact ⟨by omega, by omega, h.symm⟩

theorem checkPc_legal (t : Nat) (p : Word) (h : checkPc t = .ok p) : PcLegal p ∧ p.toNat = t := by
  obtain ⟨he, hr, rfl⟩ := checkPc_eq_ok t p h
  have : t % 65536 = t := Nat.mod_eq_of_lt (by omega)
  have hp : (BitVec.ofNat 16 t).toNat = t := by simpa using this
  exact ⟨⟨by rw [hp]; exact he, by rw [hp]; exact hr⟩, hp⟩

/-- A legal `pc` passes its own check. -/
theorem checkPc_self (p : Word) (h : PcLegal p) : checkPc p.toNat = .ok p := by
  rw [checkPc_ok _ h.1 h.2]; simp

theorem ofNat_toNat_add (p : Word) (n : Nat) : BitVec.ofNat 16 (p.toNat + n) = p + BitVec.ofNat 16 n := by
  apply BitVec.eq_of_toNat_eq
  simp

/-! ## Taking a fault (R161) and completing (R93, R95) -/

theorem raise_eq (k : FaultKind) (op : Word) (s : State) : raise k op s = .next (s.faulted k op) := rfl

theorem retire_eq (s t : State) (p : Word) :
    retire s t p = .next { t with pc := p, dispChanged := decide (t.disp ≠ s.disp) } := rfl

/-- Everything `complete` can do: take a fault at `s`, or go on with the writes of `t` and a legal `pc`. -/
theorem complete_cases (i : Instr) (s t : State) (target : Nat) :
    (∃ k, complete i s t target = .next (s.faulted k (encode i))) ∨
    (target % 2 = 0 ∧ target ≤ 0xFFE ∧
      complete i s t target =
        .next { t with pc := BitVec.ofNat 16 target, dispChanged := decide (t.disp ≠ s.disp) }) := by
  unfold complete
  cases h : checkPc target with
  | error k => exact Or.inl ⟨k, rfl⟩
  | ok p =>
    obtain ⟨he, hr, rfl⟩ := checkPc_eq_ok target p h
    exact Or.inr ⟨he, hr, rfl⟩

theorem complete_ok (i : Instr) (s t : State) (target : Nat) (he : target % 2 = 0) (hr : target ≤ 0xFFE) :
    complete i s t target =
      .next { t with pc := BitVec.ofNat 16 target, dispChanged := decide (t.disp ≠ s.disp) } := by
  unfold complete
  rw [checkPc_ok target he hr]
  rfl

theorem complete_outOfRange (i : Instr) (s t : State) (target : Nat) (h : 0xFFE < target) :
    complete i s t target = .next (s.faulted .pcOutOfRange (encode i)) := by
  unfold complete
  rw [checkPc_outOfRange target h]
  rfl

theorem complete_misaligned (i : Instr) (s t : State) (target : Nat) (ho : target % 2 = 1) (hr : target ≤ 0xFFE) :
    complete i s t target = .next (s.faulted .pcMisaligned (encode i)) := by
  unfold complete
  rw [checkPc_misaligned target ho hr]
  rfl

theorem advance_ok (i : Instr) (s t : State) (h : s.CanAdvance) :
    advance i s t = .next { t with pc := s.pc + 2, dispChanged := decide (t.disp ≠ s.disp) } := by
  unfold advance
  rw [complete_ok i s t _ (by have := h.1; omega) h.2, ofNat_toNat_add s.pc 2]
  rfl

/-- For an instruction that writes no pixel, `disp_changed` ends at 0 (R38). -/
theorem advance_ok_sameDisplay (i : Instr) (s t : State) (h : s.CanAdvance) (hd : t.disp = s.disp) :
    advance i s t = .next { t with pc := s.pc + 2, dispChanged := false } := by
  rw [advance_ok i s t h, hd]
  simp

theorem advance_atEnd (i : Instr) (s t : State) (h : 0xFFE < s.pc.toNat + 2) :
    advance i s t = .next (s.faulted .pcOutOfRange (encode i)) :=
  complete_outOfRange i s t _ h

theorem skipIf_true (i : Instr) (s : State) (h : s.CanSkip) :
    skipIf true i s = .next { s with pc := s.pc + 4, dispChanged := false } := by
  unfold skipIf
  rw [if_pos rfl, complete_ok i s s _ (by have := h.1; omega) h.2, ofNat_toNat_add s.pc 4]
  simp

theorem skipIf_false (i : Instr) (s : State) (h : s.CanAdvance) :
    skipIf false i s = .next { s with pc := s.pc + 2, dispChanged := false } := by
  unfold skipIf
  rw [if_neg (by simp), complete_ok i s s _ (by have := h.1; omega) h.2, ofNat_toNat_add s.pc 2]
  simp

/-! ## Operands and flags -/

theorem memFits_iff (top : Nat) : memFits top = true ↔ top ≤ 0xFFF := by simp [memFits]

theorem wideAddr_toNat (nnn : Addr) : (wideAddr nnn).toNat = nnn.toNat := by
  have := nnn.isLt
  simp only [wideAddr, BitVec.toNat_setWidth]
  omega

theorem vUpTo_length (s : State) (x : Reg) : (s.vUpTo x).length = x.val + 1 := by
  have := x.isLt
  rw [State.vUpTo, List.length_take]
  simp

theorem vUpTo_get (s : State) (x : Reg) (k : Nat) (h : k < (s.vUpTo x).length) (h' : k < 16) :
    (s.vUpTo x)[k] = s.readV ⟨k, h'⟩ := by
  simp [State.vUpTo, State.readV]

theorem bcdDigits_length (b : Byte) : (bcdDigits b).length = 3 := rfl

theorem keyOf_some (b : Byte) (h : b.toNat < 16) : keyOf b = some ⟨b.toNat, h⟩ := by simp [keyOf, h]

theorem keyOf_none (b : Byte) (h : 16 ≤ b.toNat) : keyOf b = none := by
  have : ¬ b.toNat < 16 := by omega
  simp [keyOf, this]

theorem readV_eq (s : State) (x : Reg) : s.readV x = s.v[x] := rfl

theorem carry_eq (a b : Byte) : carry a b = if 255 < a.toNat + b.toNat then 1 else 0 := by simp [carry, flagByte]

theorem notBorrow_eq (a b : Byte) : notBorrow a b = if b.toNat ≤ a.toNat then 1 else 0 := by
  simp [notBorrow, flagByte]

theorem shiftedOutRight_eq (a : Byte) : shiftedOutRight a = BitVec.ofNat 8 (a.toNat % 2) := by
  revert a; decide

theorem shiftedOutLeft_eq (a : Byte) : shiftedOutLeft a = BitVec.ofNat 8 (a.toNat / 128) := by
  revert a; decide

/-- Sum and difference as exact integers reduced modulo 256 (R121). -/
theorem byte_add_eq (a b : Byte) : a + b = BitVec.ofNat 8 ((a.toNat + b.toNat) % 256) := by
  apply BitVec.eq_of_toNat_eq
  simp

theorem byte_sub_eq (a b : Byte) : a - b = BitVec.ofNat 8 ((a.toNat + 256 - b.toNat) % 256) := by
  have ha := a.isLt
  have hb := b.isLt
  apply BitVec.eq_of_toNat_eq
  simp only [BitVec.toNat_sub, BitVec.toNat_ofNat]
  omega

theorem flagByte_isFlag (c : Bool) : flagByte c = 0 ∨ flagByte c = 1 := by cases c <;> simp [flagByte]

/-! ## The display -/

/-- A pixel after a flip: the flipped one is inverted, every other is as it was. -/
theorem pixel_flipPixel (d : Display) (y y' : Fin 32) (x x' : Fin 64) :
    pixel (flipPixel d y x) y' x' = if y = y' ∧ x = x' then !pixel d y' x' else pixel d y' x' := by
  unfold pixel flipPixel
  by_cases hy : y = y'
  · subst hy
    by_cases hx : x = x'
    · subst hx; simp [pixel]
    · have hxv : x.val ≠ x'.val := fun e => hx (Fin.ext e)
      simp [hx, hxv]
  · have hyv : y.val ≠ y'.val := fun e => hy (Fin.ext e)
    simp [hy, hyv]

theorem pixel_blankDisplay (y : Fin 32) (x : Fin 64) : pixel blankDisplay y x = false := by
  simp [pixel, blankDisplay]

/-- Two displays with the same pixels are the same. -/
theorem display_ext (d e : Display) (h : ∀ y x, pixel d y x = pixel e y x) : d = e := by
  apply Vector.ext
  intro y hy
  apply Vector.ext
  intro x hx
  exact h ⟨y, hy⟩ ⟨x, hx⟩

end Sys2Proof.Machine
end

