-- ==== Sys2Proof/Laws/Drawing.lean ====
section
/-! SUPPORT. What the blitter does to each pixel (44_display.md R141): the two loops in closed form. A sprite of at most
32 rows and 8 columns meets a pixel at most once. -/

namespace Sys2Proof.Machine

/-- A set bit of the sprite row `b`, at one of its first `n` columns from column `x0`, lands on column `x`. -/
def RowCovers (b : Byte) (x0 n : Nat) (x : Fin 64) : Prop :=
  ∃ j < n, spriteBit b j = true ∧ wrapColumn (x0 + j) = x

/-- A set bit of the sprite `rows`, from column `x0` and row `y0`, lands on row `y`, column `x`. -/
def RowsCover (rows : List Byte) (x0 y0 : Nat) (y : Fin 32) (x : Fin 64) : Prop :=
  ∃ r, ∃ h : r < rows.length, wrapRow (y0 + r) = y ∧ RowCovers rows[r] x0 8 x

theorem wrapColumn_inj (x0 j k : Nat) (hj : j < 64) (hk : k < 64) (h : wrapColumn (x0 + j) = wrapColumn (x0 + k)) :
    j = k := by
  have h' : (x0 + j) % 64 = (x0 + k) % 64 := congrArg Fin.val h
  omega

theorem wrapRow_inj (y0 j k : Nat) (hj : j < 32) (hk : k < 32) (h : wrapRow (y0 + j) = wrapRow (y0 + k)) : j = k := by
  have h' : (y0 + j) % 32 = (y0 + k) % 32 := congrArg Fin.val h
  omega

theorem rowCovers_succ (b : Byte) (x0 n : Nat) (x : Fin 64) :
    RowCovers b x0 (n + 1) x ↔ RowCovers b x0 n x ∨ (spriteBit b n = true ∧ wrapColumn (x0 + n) = x) := by
  constructor
  · rintro ⟨j, hj, h⟩
    rcases Nat.lt_succ_iff_lt_or_eq.mp hj with hj | rfl
    · exact Or.inl ⟨j, hj, h⟩
    · exact Or.inr h
  · rintro (⟨j, hj, h⟩ | h)
    · exact ⟨j, Nat.lt_succ_of_lt hj, h⟩
    · exact ⟨n, Nat.lt_succ_self n, h⟩

theorem not_rowCovers_next (b : Byte) (x0 n : Nat) (hn : n < 64) : ¬ RowCovers b x0 n (wrapColumn (x0 + n)) := by
  rintro ⟨j, hj, -, h⟩
  exact absurd (wrapColumn_inj x0 j n (by omega) hn h) (by omega)

/-- The inner loop after `n` columns: the covered pixels of its row are inverted, and the collision is reported iff one
of them was set. -/
theorem drawBits_spec (b : Byte) (x0 : Nat) (yy : Fin 32) (acc : Display × Bool) (n : Nat) (hn : n ≤ 64) :
    (∀ y x, pixel ((List.range n).foldl (drawBit b x0 yy) acc).1 y x ≠ pixel acc.1 y x ↔ yy = y ∧ RowCovers b x0 n x) ∧
    (((List.range n).foldl (drawBit b x0 yy) acc).2 = true ↔
      acc.2 = true ∨ ∃ x, pixel acc.1 yy x = true ∧ RowCovers b x0 n x) := by
  induction n with
  | zero => simp [RowCovers]
  | succ n ih =>
    obtain ⟨hp, hc⟩ := ih (by omega)
    rw [List.range_succ, List.foldl_append]
    generalize (List.range n).foldl (drawBit b x0 yy) acc = mid at hp hc
    show (∀ y x, pixel (drawBit b x0 yy mid n).1 y x ≠ _ ↔ _) ∧ ((drawBit b x0 yy mid n).2 = true ↔ _)
    have hfresh : pixel mid.1 yy (wrapColumn (x0 + n)) = pixel acc.1 yy (wrapColumn (x0 + n)) := by
      by_contra hne
      exact not_rowCovers_next b x0 n (by omega) ((hp _ _).mp hne).2
    unfold drawBit
    by_cases hb : spriteBit b n = true
    · rw [if_pos hb]
      refine ⟨fun y x => ?_, ?_⟩
      · simp only [pixel_flipPixel, rowCovers_succ, hb, true_and]
        by_cases hy : yy = y
        · by_cases hx : wrapColumn (x0 + n) = x
          · subst hy; subst hx
            simp [hfresh]
          · simp only [hx, and_false, if_false, or_false]
            exact hp y x
        · simp only [hy, false_and, if_false]
          exact (hp y x).trans (by simp [hy])
      · simp only [Bool.or_eq_true, hc, hfresh, rowCovers_succ, hb, true_and]
        constructor
        · rintro ((h | ⟨x, h, h'⟩) | h)
          · exact Or.inl h
          · exact Or.inr ⟨x, h, Or.inl h'⟩
          · exact Or.inr ⟨_, h, Or.inr rfl⟩
        · rintro (h | ⟨x, h, h' | rfl⟩)
          · exact Or.inl (Or.inl h)
          · exact Or.inl (Or.inr ⟨x, h, h'⟩)
          · exact Or.inr h
    · rw [if_neg hb]
      refine ⟨fun y x => ?_, ?_⟩
      · rw [hp, rowCovers_succ]; simp [hb]
      · rw [hc]; simp [rowCovers_succ, hb]

theorem rowsCover_cons (b : Byte) (rest : List Byte) (x0 y0 : Nat) (y : Fin 32) (x : Fin 64) :
    RowsCover (b :: rest) x0 y0 y x ↔ (wrapRow y0 = y ∧ RowCovers b x0 8 x) ∨ RowsCover rest x0 (y0 + 1) y x := by
  constructor
  · rintro ⟨r, hr, h⟩
    cases r with
    | zero => exact Or.inl h
    | succ r => exact Or.inr ⟨r, Nat.lt_of_succ_lt_succ hr, by rw [← Nat.add_right_comm]; exact h.1, h.2⟩
  · rintro (h | ⟨r, hr, h, h'⟩)
    · exact ⟨0, Nat.succ_pos _, h⟩
    · exact ⟨r + 1, Nat.succ_lt_succ hr, by rw [← Nat.add_right_comm] at h; exact h, h'⟩

theorem not_rowsCover_above (rest : List Byte) (x0 y0 : Nat) (x : Fin 64) (h : rest.length < 32) :
    ¬ RowsCover rest x0 (y0 + 1) (wrapRow y0) x := by
  rintro ⟨r, hr, hy, -⟩
  have := wrapRow_inj y0 (1 + r) 0 (by omega) (by omega) (by rw [← Nat.add_assoc]; exact hy)
  omega

/-- The outer loop: exactly the covered pixels are inverted, and the collision is reported iff one of them was set. -/
theorem drawRows_spec (x0 : Nat) (rows : List Byte) (y0 : Nat) (acc : Display × Bool) (hlen : rows.length ≤ 32) :
    (∀ y x, pixel (drawRows x0 rows y0 acc).1 y x ≠ pixel acc.1 y x ↔ RowsCover rows x0 y0 y x) ∧
    ((drawRows x0 rows y0 acc).2 = true ↔
      acc.2 = true ∨ ∃ y x, pixel acc.1 y x = true ∧ RowsCover rows x0 y0 y x) := by
  induction rows generalizing y0 acc with
  | nil => simp [drawRows, RowsCover]
  | cons b rest ih =>
    have hrest : rest.length < 32 := by simpa using hlen
    obtain ⟨hp, hc⟩ := drawBits_spec b x0 (wrapRow y0) acc 8 (by omega)
    obtain ⟨hp', hc'⟩ := ih (y0 + 1) (drawRow b x0 (wrapRow y0) acc) (by omega)
    change ∀ y x, pixel (drawRow b x0 (wrapRow y0) acc).1 y x ≠ pixel acc.1 y x ↔ _ at hp
    change (drawRow b x0 (wrapRow y0) acc).2 = true ↔ _ at hc
    show (∀ y x, pixel (drawRows x0 rest (y0 + 1) _).1 y x ≠ _ ↔ _) ∧ ((drawRows x0 rest (y0 + 1) _).2 = true ↔ _)
    generalize drawRow b x0 (wrapRow y0) acc = mid at hp hc hp' hc'
    refine ⟨fun y x => ?_, ?_⟩
    · rw [rowsCover_cons, ← hp, ← hp']
      by_cases hmid : pixel mid.1 y x = pixel acc.1 y x
      · rw [hmid]; simp
      · obtain ⟨rfl, -⟩ := (hp y x).mp hmid
        have hsame : pixel (drawRows x0 rest (y0 + 1) mid).1 (wrapRow y0) x = pixel mid.1 (wrapRow y0) x := by
          by_contra hne
          exact not_rowsCover_above rest x0 y0 x hrest ((hp' _ _).mp hne)
        rw [hsame]
        simp
    · rw [hc', hc]
      constructor
      · rintro ((h | ⟨x, h, h'⟩) | ⟨y, x, h, h'⟩)
        · exact Or.inl h
        · exact Or.inr ⟨_, x, h, (rowsCover_cons ..).mpr (Or.inl ⟨rfl, h'⟩)⟩
        · refine Or.inr ⟨y, x, ?_, (rowsCover_cons ..).mpr (Or.inr h')⟩
          by_contra hne
          obtain ⟨rfl, -⟩ := (hp y x).mp (by rw [h]; exact fun e => hne e.symm)
          exact not_rowsCover_above rest x0 y0 x hrest h'
      · rintro (h | ⟨y, x, h, h'⟩)
        · exact Or.inl (Or.inl h)
        · rcases (rowsCover_cons ..).mp h' with ⟨rfl, hrow⟩ | hrows
          · exact Or.inl (Or.inr ⟨x, h, hrow⟩)
          · refine Or.inr ⟨y, x, ?_, hrows⟩
            by_contra hne
            obtain ⟨rfl, -⟩ := (hp y x).mp (by rw [h]; exact hne)
            exact not_rowsCover_above rest x0 y0 x hrest hrows

/-- A draw of at most 32 rows inverts exactly the covered pixels. -/
theorem draw_pixel (d : Display) (x0 y0 : Nat) (rows : List Byte) (hlen : rows.length ≤ 32) (y : Fin 32) (x : Fin 64) :
    pixel (draw d x0 y0 rows).1 y x ≠ pixel d y x ↔ RowsCover rows x0 y0 y x :=
  (drawRows_spec x0 rows y0 (d, false) hlen).1 y x

/-- It reports a collision iff a covered pixel was set. -/
theorem draw_collision (d : Display) (x0 y0 : Nat) (rows : List Byte) (hlen : rows.length ≤ 32) :
    (draw d x0 y0 rows).2 = true ↔ ∃ y x, pixel d y x = true ∧ RowsCover rows x0 y0 y x := by
  unfold draw
  simpa using (drawRows_spec x0 rows y0 (d, false) hlen).2

theorem display_ne_iff (d e : Display) : d ≠ e ↔ ∃ y x, pixel d y x ≠ pixel e y x := by
  constructor
  · intro h
    by_contra hall
    push Not at hall
    exact h (display_ext d e hall)
  · rintro ⟨y, x, h⟩ rfl
    exact h rfl

end Sys2Proof.Machine
end

