-- ==== Sys2Proof/Laws/Exec.lean ====
section
/-! SUPPORT. The inversion lemma of `exec`: everything an instruction can do, said once. It takes a fault, or it leaves
its writes with a `pc` of which the check is known. -/

namespace Sys2Proof.Machine

/-- The writes of an instruction whose checks have passed, without `pc` and `disp_changed`. -/
def written (i : Instr) (s : State) : State :=
  match i with
  | .cls => s.writeDisp blankDisplay
  | .ret => s.pop
  | .call _ => if h : s.sp.val < 16 then s.push h (s.pc + 2) else s
  | .jp _ | .jpV0 _ | .seImm _ _ | .sneImm _ _ | .seReg _ _ | .sneReg _ _ | .skp _ | .sknp _ => s
  | .ldImm x nn => s.writeV x nn
  | .addImm x nn => s.writeV x (s.readV x + nn)
  | .ldReg x y => s.writeV x (s.readV y)
  | .orReg x y => s.writeV x (s.readV x ||| s.readV y)
  | .andReg x y => s.writeV x (s.readV x &&& s.readV y)
  | .xorReg x y => s.writeV x (s.readV x ^^^ s.readV y)
  | .addReg x y => s.writeVFlag x (s.readV x + s.readV y) (carry (s.readV x) (s.readV y))
  | .subReg x y => s.writeVFlag x (s.readV x - s.readV y) (notBorrow (s.readV x) (s.readV y))
  | .shr x _ => s.writeVFlag x (s.readV x >>> 1) (shiftedOutRight (s.readV x))
  | .subnReg x y => s.writeVFlag x (s.readV y - s.readV x) (notBorrow (s.readV y) (s.readV x))
  | .shl x _ => s.writeVFlag x (s.readV x <<< 1) (shiftedOutLeft (s.readV x))
  | .ldI nnn => s.writeI (wideAddr nnn)
  | .rnd x nn => s.rndTaken.writeV x (s.rndByte &&& nn)
  | .drw x y n =>
    (s.writeDisp (draw s.disp (s.readV x).toNat (s.readV y).toNat (s.spriteRows n)).1).writeV flagReg
      (flagByte (draw s.disp (s.readV x).toNat (s.readV y).toNat (s.spriteRows n)).2)
  | .ldVxDT x => s.writeV x s.dt
  | .ldVxK x => s.park x
  | .ldDTVx x => s.writeDT (s.readV x)
  | .ldSTVx x => s.writeST (s.readV x)
  | .addI x => s.writeI (BitVec.ofNat 16 (s.addr (s.readV x).toNat))
  | .ldF x => s.writeI (glyphAddr (s.readV x))
  | .ldB x => s.memWriteList (s.addr 0) (bcdDigits (s.readV x))
  | .storeRegs x => s.memWriteList (s.addr 0) (s.vUpTo x)
  | .loadRegs x => s.writeVUpTo x fun k => s.memRead (s.addr k)

/-- What the checks of an instruction have established when it goes on to `p`. -/
def Checked (i : Instr) (s : State) (p : Word) : Prop :=
  match i with
  | .ret => ∃ h : 0 < s.sp.val, p = s.stackTop h
  | .call _ => s.sp.val < 16 ∧ PcLegal (s.pc + 2) ∧ PcLegal p
  | .ldVxK _ => PcLegal (s.pc + 2) ∧ s.pc.toNat + 2 ≤ 0xFFE ∧ p = s.pc
  | .addI x => s.addr (s.readV x).toNat ≤ 0xFFF ∧ PcLegal p
  | .ldB _ => s.addr 2 ≤ 0xFFF ∧ PcLegal p
  | .storeRegs x => s.addr x.val ≤ 0xFFF ∧ PcLegal p
  | _ => PcLegal p

theorem complete_inv (i : Instr) (s t : State) (target : Nat) :
    (∃ k, (k = .pcOutOfRange ∨ k = .pcMisaligned ∧ target % 2 = 1) ∧
      complete i s t target = .next (s.faulted k (encode i))) ∨
    (∃ p, PcLegal p ∧ complete i s t target = .next { t with pc := p, dispChanged := decide (t.disp ≠ s.disp) }) := by
  by_cases h : 0xFFE < target
  · exact Or.inl ⟨_, Or.inl rfl, complete_outOfRange i s t target h⟩
  · by_cases ho : target % 2 = 1
    · exact Or.inl ⟨_, Or.inr ⟨rfl, ho⟩, complete_misaligned i s t target ho (by omega)⟩
    · have hp := checkPc_legal target _ (checkPc_ok target (by omega) (by omega))
      exact Or.inr ⟨_, hp.1, complete_ok i s t target (by omega) (by omega)⟩

/-- `CheckPc(pc + 2)` passed. -/
theorem checkPc_advance (s : State) (p : Word) (h : checkPc (s.pc.toNat + 2) = .ok p) :
    p = s.pc + 2 ∧ PcLegal (s.pc + 2) ∧ s.pc.toNat + 2 ≤ 0xFFE := by
  obtain ⟨-, hr, he⟩ := checkPc_eq_ok _ _ h
  have hp : p = s.pc + 2 := he.trans (ofNat_toNat_add s.pc 2)
  exact ⟨hp, by rw [← hp]; exact (checkPc_legal _ _ h).1, hr⟩

/-- Everything `exec` can do. -/
theorem exec_cases (i : Instr) (s : State) :
    (∃ k, exec i s = .next (s.faulted k (encode i))) ∨
    (∃ p, Checked i s p ∧
      exec i s = .next { written i s with pc := p, dispChanged := decide ((written i s).disp ≠ s.disp) }) := by
  have fromComplete : ∀ (t : State) (target : Nat),
      (∀ p, PcLegal p → Checked i s p) → written i s = t → exec i s = complete i s t target →
      (∃ k, exec i s = .next (s.faulted k (encode i))) ∨
      (∃ p, Checked i s p ∧
        exec i s = .next { written i s with pc := p, dispChanged := decide ((written i s).disp ≠ s.disp) }) := by
    intro t target hck hw he
    rcases complete_inv i s t target with ⟨k, -, h⟩ | ⟨p, hp, h⟩
    · exact Or.inl ⟨k, he.trans h⟩
    · exact Or.inr ⟨p, hck p hp, by rw [he, h, hw]⟩
  cases i with
  | ret =>
    by_cases h : 0 < s.sp.val
    · exact Or.inr ⟨s.stackTop h, ⟨h, rfl⟩, by simp only [exec, execRet, dif_pos h]; rfl⟩
    · exact Or.inl ⟨_, by simp only [exec, execRet, dif_neg h]; rfl⟩
  | call nnn =>
    by_cases h : s.sp.val < 16
    · cases hc : checkPc (s.pc.toNat + 2) with
      | error k => exact Or.inl ⟨k, by simp only [exec, execCall, dif_pos h, hc]; rfl⟩
      | ok ret =>
        obtain ⟨rfl, hl, -⟩ := checkPc_advance s ret hc
        exact fromComplete (s.push h (s.pc + 2)) nnn.toNat (fun p hp => ⟨h, hl, hp⟩) (by simp only [written, dif_pos h])
          (by simp only [exec, execCall, dif_pos h, hc])
    · exact Or.inl ⟨_, by simp only [exec, execCall, dif_neg h]; rfl⟩
  | ldVxK x =>
    cases hc : checkPc (s.pc.toNat + 2) with
    | error k => exact Or.inl ⟨k, by simp only [exec, execLdVxK, hc]; rfl⟩
    | ok p =>
      obtain ⟨-, hl, hr⟩ := checkPc_advance s p hc
      exact Or.inr ⟨s.pc, ⟨hl, hr, rfl⟩, by simp only [exec, execLdVxK, hc]; rfl⟩
  | skp x =>
    cases hk : keyOf (s.readV x) with
    | none => exact Or.inl ⟨_, by simp only [exec, execSkp, hk]; rfl⟩
    | some c => exact fromComplete _ _ (fun _ h => h) rfl (by simp only [exec, execSkp, hk]; rfl)
  | sknp x =>
    cases hk : keyOf (s.readV x) with
    | none => exact Or.inl ⟨_, by simp only [exec, execSknp, hk]; rfl⟩
    | some c => exact fromComplete _ _ (fun _ h => h) rfl (by simp only [exec, execSknp, hk]; rfl)
  | addI x =>
    by_cases h : 0xFFF < s.addr (s.readV x).toNat
    · exact Or.inl ⟨_, by simp only [exec, execAddI, if_pos h]; rfl⟩
    · exact fromComplete _ _ (fun _ hp => ⟨by omega, hp⟩) rfl (by simp only [exec, execAddI, if_neg h]; rfl)
  | ldB x =>
    by_cases h : memFits (s.addr 2) = true
    · exact fromComplete _ _ (fun _ hp => ⟨(memFits_iff _).mp h, hp⟩) rfl
        (by simp only [exec, execLdB, if_pos h]; rfl)
    · exact Or.inl ⟨_, by simp only [exec, execLdB, if_neg h]; rfl⟩
  | storeRegs x =>
    by_cases h : memFits (s.addr x.val) = true
    · exact fromComplete _ _ (fun _ hp => ⟨(memFits_iff _).mp h, hp⟩) rfl
        (by simp only [exec, execStoreRegs, if_pos h]; rfl)
    · exact Or.inl ⟨_, by simp only [exec, execStoreRegs, if_neg h]; rfl⟩
  | loadRegs x =>
    by_cases h : memFits (s.addr x.val) = true
    · exact fromComplete _ _ (fun _ hp => hp) rfl (by simp only [exec, execLoadRegs, if_pos h]; rfl)
    · exact Or.inl ⟨_, by simp only [exec, execLoadRegs, if_neg h]; rfl⟩
  | drw x y n =>
    by_cases h : n.val = 0 ∨ memFits (s.addr (n.val - 1)) = true
    · exact fromComplete _ _ (fun _ hp => hp) rfl (by simp only [exec, execDrw, if_pos h]; rfl)
    · exact Or.inl ⟨_, by simp only [exec, execDrw, if_neg h]; rfl⟩
  | _ => exact fromComplete _ _ (fun _ h => h) rfl rfl

end Sys2Proof.Machine
end

