-- ==== Sys2Proof/Laws/PerInstr.lean ====
section
/-! SUPPORT. Per instruction: its word stands in its row of the opcode table (R76), and its operands fit their fields
(R73). -/

namespace Sys2Proof.Laws

/-- Under a mask of the class, a word of format `ADDR` shows the class. -/
theorem fmtAddr_masked (c : BitVec 4) (nnn : Addr) : fmtAddr c nnn &&& 0xF000 = fmtAddr c 0 := by
  apply BitVec.eq_of_getLsbD_eq
  intro i hi
  unfold fmtAddr
  rw [BitVec.getLsbD_and]
  erw [BitVec.getLsbD_append, BitVec.getLsbD_append]
  interval_cases i <;> simp

theorem fmtRegImm_masked_class (c : BitVec 4) (x : Reg) (nn : Byte) :
    fmtRegImm c x nn &&& 0xF000 = fmtRegImm c 0 0 := by
  apply BitVec.eq_of_getLsbD_eq
  intro i hi
  unfold fmtRegImm
  rw [BitVec.getLsbD_and]
  erw [BitVec.getLsbD_append, BitVec.getLsbD_append, BitVec.getLsbD_append, BitVec.getLsbD_append]
  interval_cases i <;> simp [nibbleBits]

theorem fmtRegImm_masked_sub (c : BitVec 4) (x : Reg) (nn : Byte) :
    fmtRegImm c x nn &&& 0xF0FF = fmtRegImm c 0 nn := by
  apply BitVec.eq_of_getLsbD_eq
  intro i hi
  unfold fmtRegImm
  rw [BitVec.getLsbD_and]
  erw [BitVec.getLsbD_append, BitVec.getLsbD_append, BitVec.getLsbD_append, BitVec.getLsbD_append]
  interval_cases i <;> simp [nibbleBits]

theorem fmtRegReg_masked_sub (c : BitVec 4) (x y : Reg) (n : Fin 16) :
    fmtRegReg c x y n &&& 0xF00F = fmtRegReg c 0 0 n := by
  apply BitVec.eq_of_getLsbD_eq
  intro i hi
  unfold fmtRegReg
  rw [BitVec.getLsbD_and]
  erw [BitVec.getLsbD_append, BitVec.getLsbD_append, BitVec.getLsbD_append, BitVec.getLsbD_append]
  rw [BitVec.getLsbD_append, BitVec.getLsbD_append]
  interval_cases i <;> simp [nibbleBits]

theorem fmtRegReg_masked_class (c : BitVec 4) (x y : Reg) (n : Fin 16) :
    fmtRegReg c x y n &&& 0xF000 = fmtRegReg c 0 0 0 := by
  apply BitVec.eq_of_getLsbD_eq
  intro i hi
  unfold fmtRegReg
  rw [BitVec.getLsbD_and]
  erw [BitVec.getLsbD_append, BitVec.getLsbD_append, BitVec.getLsbD_append, BitVec.getLsbD_append]
  rw [BitVec.getLsbD_append, BitVec.getLsbD_append]
  interval_cases i <;> simp [nibbleBits]

/-- Every operand of an `Instr` is in range by its type (R73). -/
theorem wellFormed_of_typed (i : Instr) : i.wellFormed = true := by
  cases i <;> simp [Instr.wellFormed, Instr.operands, Operand.wellFormed] <;> exact BitVec.isLt _

namespace Row

/-- The word matches its row and the operands fit. -/
def Statement (i : Instr) : Prop := encode i &&& (rowOf i).mask = (rowOf i).pat ∧ i.wellFormed = true

theorem cls : Statement .cls :=
  ⟨by decide, wellFormed_of_typed _⟩

theorem ret : Statement .ret :=
  ⟨by decide, wellFormed_of_typed _⟩

theorem jp (nnn : Addr) : Statement (.jp nnn) :=
  ⟨(fmtAddr_masked _ _).trans rfl, wellFormed_of_typed _⟩

theorem call (nnn : Addr) : Statement (.call nnn) :=
  ⟨(fmtAddr_masked _ _).trans rfl, wellFormed_of_typed _⟩

theorem seImm (x : Reg) (nn : Byte) : Statement (.seImm x nn) :=
  ⟨(fmtRegImm_masked_class _ _ _).trans rfl, wellFormed_of_typed _⟩

theorem sneImm (x : Reg) (nn : Byte) : Statement (.sneImm x nn) :=
  ⟨(fmtRegImm_masked_class _ _ _).trans rfl, wellFormed_of_typed _⟩

theorem seReg (x y : Reg) : Statement (.seReg x y) :=
  ⟨(fmtRegReg_masked_sub _ _ _ _).trans rfl, wellFormed_of_typed _⟩

theorem ldImm (x : Reg) (nn : Byte) : Statement (.ldImm x nn) :=
  ⟨(fmtRegImm_masked_class _ _ _).trans rfl, wellFormed_of_typed _⟩

theorem addImm (x : Reg) (nn : Byte) : Statement (.addImm x nn) :=
  ⟨(fmtRegImm_masked_class _ _ _).trans rfl, wellFormed_of_typed _⟩

theorem ldReg (x y : Reg) : Statement (.ldReg x y) :=
  ⟨(fmtRegReg_masked_sub _ _ _ _).trans rfl, wellFormed_of_typed _⟩

theorem orReg (x y : Reg) : Statement (.orReg x y) :=
  ⟨(fmtRegReg_masked_sub _ _ _ _).trans rfl, wellFormed_of_typed _⟩

theorem andReg (x y : Reg) : Statement (.andReg x y) :=
  ⟨(fmtRegReg_masked_sub _ _ _ _).trans rfl, wellFormed_of_typed _⟩

theorem xorReg (x y : Reg) : Statement (.xorReg x y) :=
  ⟨(fmtRegReg_masked_sub _ _ _ _).trans rfl, wellFormed_of_typed _⟩

theorem addReg (x y : Reg) : Statement (.addReg x y) :=
  ⟨(fmtRegReg_masked_sub _ _ _ _).trans rfl, wellFormed_of_typed _⟩

theorem subReg (x y : Reg) : Statement (.subReg x y) :=
  ⟨(fmtRegReg_masked_sub _ _ _ _).trans rfl, wellFormed_of_typed _⟩

theorem shr (x y : Reg) : Statement (.shr x y) :=
  ⟨(fmtRegReg_masked_sub _ _ _ _).trans rfl, wellFormed_of_typed _⟩

theorem subnReg (x y : Reg) : Statement (.subnReg x y) :=
  ⟨(fmtRegReg_masked_sub _ _ _ _).trans rfl, wellFormed_of_typed _⟩

theorem shl (x y : Reg) : Statement (.shl x y) :=
  ⟨(fmtRegReg_masked_sub _ _ _ _).trans rfl, wellFormed_of_typed _⟩

theorem sneReg (x y : Reg) : Statement (.sneReg x y) :=
  ⟨(fmtRegReg_masked_sub _ _ _ _).trans rfl, wellFormed_of_typed _⟩

theorem ldI (nnn : Addr) : Statement (.ldI nnn) :=
  ⟨(fmtAddr_masked _ _).trans rfl, wellFormed_of_typed _⟩

theorem jpV0 (nnn : Addr) : Statement (.jpV0 nnn) :=
  ⟨(fmtAddr_masked _ _).trans rfl, wellFormed_of_typed _⟩

theorem rnd (x : Reg) (nn : Byte) : Statement (.rnd x nn) :=
  ⟨(fmtRegImm_masked_class _ _ _).trans rfl, wellFormed_of_typed _⟩

theorem drw (x y : Reg) (n : Rows) : Statement (.drw x y n) :=
  ⟨(fmtRegReg_masked_class _ _ _ _).trans rfl, wellFormed_of_typed _⟩

theorem skp (x : Reg) : Statement (.skp x) :=
  ⟨(fmtRegImm_masked_sub _ _ _).trans rfl, wellFormed_of_typed _⟩

theorem sknp (x : Reg) : Statement (.sknp x) :=
  ⟨(fmtRegImm_masked_sub _ _ _).trans rfl, wellFormed_of_typed _⟩

theorem ldVxDT (x : Reg) : Statement (.ldVxDT x) :=
  ⟨(fmtRegImm_masked_sub _ _ _).trans rfl, wellFormed_of_typed _⟩

theorem ldVxK (x : Reg) : Statement (.ldVxK x) :=
  ⟨(fmtRegImm_masked_sub _ _ _).trans rfl, wellFormed_of_typed _⟩

theorem ldDTVx (x : Reg) : Statement (.ldDTVx x) :=
  ⟨(fmtRegImm_masked_sub _ _ _).trans rfl, wellFormed_of_typed _⟩

theorem ldSTVx (x : Reg) : Statement (.ldSTVx x) :=
  ⟨(fmtRegImm_masked_sub _ _ _).trans rfl, wellFormed_of_typed _⟩

theorem addI (x : Reg) : Statement (.addI x) :=
  ⟨(fmtRegImm_masked_sub _ _ _).trans rfl, wellFormed_of_typed _⟩

theorem ldF (x : Reg) : Statement (.ldF x) :=
  ⟨(fmtRegImm_masked_sub _ _ _).trans rfl, wellFormed_of_typed _⟩

theorem ldB (x : Reg) : Statement (.ldB x) :=
  ⟨(fmtRegImm_masked_sub _ _ _).trans rfl, wellFormed_of_typed _⟩

theorem storeRegs (x : Reg) : Statement (.storeRegs x) :=
  ⟨(fmtRegImm_masked_sub _ _ _).trans rfl, wellFormed_of_typed _⟩

theorem loadRegs (x : Reg) : Statement (.loadRegs x) :=
  ⟨(fmtRegImm_masked_sub _ _ _).trans rfl, wellFormed_of_typed _⟩

end Row

end Sys2Proof.Laws
end

