-- ==== Sys2Proof/Tests/Slice0.lean ====
section
/-! SUPPORT. The model's own tests: ill-formed operands refused, words written out from the encodings of 30_encoding.md
R76, one step against the vectors of 95_test_vectors.md (named in each comment), and for every statement with
hypotheses a state that meets them. -/

namespace Sys2Proof.Tests

open Machine Rules

/-! ## Well-formedness (30_encoding.md R73) -/

theorem smoke_reg_refused : Operand.wellFormed (.reg 16) = false := by decide
theorem smoke_imm8_refused : Operand.wellFormed (.imm8 256) = false := by decide
theorem smoke_addr12_refused : Operand.wellFormed (.addr12 4096) = false := by decide
theorem smoke_imm4_refused : Operand.wellFormed (.imm4 16) = false := by decide
theorem smoke_largest_operands_accepted : Instr.wellFormed (.drw 15 15 15) = true ∧ Instr.wellFormed (.jp 0xFFF) = true ∧
    Instr.wellFormed (.rnd 15 0xFF) = true := by decide

/-! ## Decoding: words written out bit by bit from the column `pattern` of R76 and the fields of R71 -/

theorem test_decode_class0 :
    decodeWord 0b0000_0000_1110_0000 = .ok (.cls) ∧
    decodeWord 0b0000_0000_1110_1110 = .ok (.ret) := by decide
theorem test_decode_addr :
    decodeWord 0b0001_0010_0011_0100 = .ok (.jp 0x234) ∧
    decodeWord 0b0010_0010_0001_0100 = .ok (.call 0x214) ∧
    decodeWord 0b1010_0011_0000_0000 = .ok (.ldI 0x300) ∧
    decodeWord 0b1011_1111_1111_1110 = .ok (.jpV0 0xFFE) := by decide
theorem test_decode_reg_imm :
    decodeWord 0b0011_0001_1000_0000 = .ok (.seImm 0x1 0x80) ∧
    decodeWord 0b0100_0011_0000_0001 = .ok (.sneImm 0x3 0x01) ∧
    decodeWord 0b0110_1111_1010_1011 = .ok (.ldImm 0xF 0xAB) ∧
    decodeWord 0b0111_0011_0000_0101 = .ok (.addImm 0x3 0x05) ∧
    decodeWord 0b1100_0011_0000_1111 = .ok (.rnd 0x3 0x0F) := by decide
theorem test_decode_reg_reg :
    decodeWord 0b0101_0010_0101_0000 = .ok (.seReg 0x2 0x5) ∧
    decodeWord 0b1001_0011_0001_0000 = .ok (.sneReg 0x3 0x1) ∧
    decodeWord 0b1000_0010_1111_0000 = .ok (.ldReg 0x2 0xF) ∧
    decodeWord 0b1000_0001_0011_0001 = .ok (.orReg 0x1 0x3) ∧
    decodeWord 0b1000_0001_0011_0010 = .ok (.andReg 0x1 0x3) ∧
    decodeWord 0b1000_0001_0011_0011 = .ok (.xorReg 0x1 0x3) ∧
    decodeWord 0b1000_0000_0001_0100 = .ok (.addReg 0x0 0x1) ∧
    decodeWord 0b1000_0001_0010_0101 = .ok (.subReg 0x1 0x2) ∧
    decodeWord 0b1000_0011_0000_0110 = .ok (.shr 0x3 0x0) ∧
    decodeWord 0b1000_0000_0001_0111 = .ok (.subnReg 0x0 0x1) ∧
    decodeWord 0b1000_0011_0000_1110 = .ok (.shl 0x3 0x0) := by decide
theorem test_decode_draw :
    decodeWord 0b1101_0000_0001_0101 = .ok (.drw 0x0 0x1 0x5) := by decide
theorem test_decode_reg_sub :
    decodeWord 0b1110_0001_1001_1110 = .ok (.skp 0x1) ∧
    decodeWord 0b1110_0001_1010_0001 = .ok (.sknp 0x1) ∧
    decodeWord 0b1111_0010_0000_0111 = .ok (.ldVxDT 0x2) ∧
    decodeWord 0b1111_0001_0000_1010 = .ok (.ldVxK 0x1) ∧
    decodeWord 0b1111_0000_0001_0101 = .ok (.ldDTVx 0x0) ∧
    decodeWord 0b1111_0000_0001_1000 = .ok (.ldSTVx 0x0) ∧
    decodeWord 0b1111_0010_0001_1110 = .ok (.addI 0x2) ∧
    decodeWord 0b1111_0100_0010_1001 = .ok (.ldF 0x4) ∧
    decodeWord 0b1111_0101_0011_0011 = .ok (.ldB 0x5) ∧
    decodeWord 0b1111_0001_0101_0101 = .ok (.storeRegs 0x1) ∧
    decodeWord 0b1111_0010_0110_0101 = .ok (.loadRegs 0x2) := by decide

/-- L2.6: words that are no instruction. -/
theorem test_decode_unknown :
    decodeWord 0x0000 = .error .unknownClass0 ∧ decodeWord 0x00E1 = .error .unknownClass0 ∧
    decodeWord 0x00C1 = .error .unknownClass0 ∧ decodeWord 0x5251 = .error .unknownClass5 ∧
    decodeWord 0x800F = .error .unknownClass8 ∧ decodeWord 0x8ABD = .error .unknownClass8 ∧
    decodeWord 0x9001 = .error .unknownClass9 ∧ decodeWord 0xE09F = .error .unknownClassE ∧
    decodeWord 0xF085 = .error .unknownClassF ∧ decodeBytes [0x12] = .error .tooShort := by decide

/-- The first byte is the high one (R53). -/
theorem test_decode_bytes : decodeBytes [0x12, 0x34, 0x00] = .ok (.jp 0x234, [0x00]) ∧
    encodeBytes (.jp 0x234) = [0x12, 0x34] := by decide

theorem test_decode_table_word : decodeTableWord 16 0x8014 = some (.addReg 0x0 0x1) ∧ decodeTableWord 16 0x8008 = none := by
  decide

/-! ## One step -/

/-- The launch state with the policy `Strict`, as 95_test_vectors.md starts. -/
def start : State := { State.reset with cfg := { Config.default with unknownPolicy := .strict } }

/-- The same under `Lenient`. -/
def lenient : State := { State.reset with cfg := { Config.default with unknownPolicy := .lenient } }

/-- The launch state with another `pc`. -/
def at_ (p : Word) : State := { start with pc := p }

/-- The state after, or `start` where there is none. -/
def stateOf : Host.Outcome State Fault Refusal → State
  | .next t => t
  | _ => start

/-- The refusal, if there is one. -/
def refusalOf : Host.Outcome State Fault Refusal → Option Refusal
  | .refused r => some r
  | _ => none

/-- One step on the word `w` at `pc`. -/
def run (w : Nat) (s : State) : State := stateOf (step (s.withFetchWord 16 w))

/-- One event. -/
def after (e : Event) (s : State) : State := stateOf (handle e s)

/-- The bytes of memory at `a, ..., a + n - 1`. -/
def bytes (a n : Nat) (s : State) : List Byte := s.memReadList a n

/-- The set pixels of some rows as (row, column). -/
def lit (rows : List (Fin 32)) (s : State) : List (Nat × Nat) :=
  rows.flatMap fun y => ((List.finRange 64).filter fun x => s.disp[y][x]).map fun x => (y.val, x.val)

/-- With the pixels set. -/
def light (ps : List (Fin 32 × Fin 64)) (s : State) : State :=
  { s with disp := ps.foldl (fun d p => d.set p.1 (d[p.1].set p.2 true)) s.disp }

/-- With a word stack that holds one return address. -/
def called (ret : Word) (s : State) : State := { s with stack := s.stack.set 0 ret, sp := 1 }

/-- With a full stack. -/
def full (s : State) : State := { s with sp := 16 }

/-! Control flow (L2.1). -/

/-- T1. -/
theorem test_ret_pops :
    (run 0x00EE (called 0x208 (at_ 0x300))).pc = 0x208 ∧
    (run 0x00EE (called 0x208 (at_ 0x300))).sp = 0 := by
  decide
/-- T2. -/
theorem test_ret_empty : (run 0x00EE start).fault = some ⟨.stackUnderflow, 0x200, 0x00EE⟩ := by decide
/-- T6. -/
theorem test_jp_last_address : (run 0x1FFE start).pc = 0xFFE := by decide
/-- T5, T4. -/
theorem test_jp_range_before_alignment :
    (run 0x1FFF start).fault = some ⟨.pcOutOfRange, 0x200, 0x1FFF⟩ ∧
    (run 0x1235 start).fault = some ⟨.pcMisaligned, 0x200, 0x1235⟩ := by
  decide
/-- T8. -/
theorem test_call_pushes :
    (run 0x2214 (at_ 0x206)).stack[0] = 0x208 ∧
    (run 0x2214 (at_ 0x206)).sp = 1 ∧
    (run 0x2214 (at_ 0x206)).pc = 0x214 := by
  decide
/-- T12, T10, T11. -/
theorem test_call_checks_in_order :
    (run 0x2301 (full start)).fault = some ⟨.stackOverflow, 0x200, 0x2301⟩ ∧
    (run 0x2300 (at_ 0xFFE)).fault = some ⟨.pcOutOfRange, 0xFFE, 0x2300⟩ ∧
    (run 0x2301 start).fault = some ⟨.pcMisaligned, 0x200, 0x2301⟩ := by
  decide
/-- T13. -/
theorem test_jpV0_adds : (run 0xB300 (start.writeV 0 4)).pc = 0x304 := by decide
/-- T14, T15. -/
theorem test_jpV0_no_wrap :
    (run 0xBFFE (start.writeV 0 2)).fault = some ⟨.pcOutOfRange, 0x200, 0xBFFE⟩ ∧
    (run 0xB300 (start.writeV 0 3)).fault = some ⟨.pcMisaligned, 0x200, 0xB300⟩ := by
  decide
/-- T17, T18. -/
theorem test_seImm : (run 0x3100 (at_ 0x208)).pc = 0x20C ∧ (run 0x3101 (at_ 0x208)).pc = 0x20A := by decide
/-- T19, T20. -/
theorem test_seImm_at_end :
    (run 0x3000 (at_ 0xFFC)).fault = some ⟨.pcOutOfRange, 0xFFC, 0x3000⟩ ∧
    (run 0x3001 (at_ 0xFFC)).pc = 0xFFE := by
  decide
/-- T21, T22. -/
theorem test_sneImm :
    (run 0x4301 ((at_ 0x210).writeV 3 1)).pc = 0x212 ∧
    (run 0x4302 ((at_ 0x210).writeV 3 1)).pc = 0x214 := by
  decide
/-- T23, T24. -/
theorem test_seReg :
    (run 0x5250 (((at_ 0x300).writeV 2 7).writeV 5 7)).pc = 0x304 ∧
    (run 0x5250 (((at_ 0x300).writeV 2 7).writeV 5 8)).pc = 0x302 := by
  decide
/-- T26, T27. -/
theorem test_sneReg :
    (run 0x9310 (((at_ 0x218).writeV 3 6).writeV 1 1)).pc = 0x21C ∧
    (run 0x9AA0 (start.writeV 10 9)).pc = 0x202 := by
  decide

/-! Load, arithmetic, logic, shifts (L1, L2.2). -/

/-- A1. -/
theorem test_ldImm : (run 0x6FAB start).v[15] = 0xAB := by decide
/-- T28. -/
theorem test_ldImm_at_end :
    (run 0x6005 (at_ 0xFFE)).fault = some ⟨.pcOutOfRange, 0xFFE, 0x6005⟩ ∧
    (run 0x6005 (at_ 0xFFE)).v[0] = 0 := by
  decide
/-- A2. -/
theorem test_addImm_no_flag :
    (run 0x7001 ((start.writeV 0 0xFF).writeV 15 0x55)).v[0] = 0 ∧
    (run 0x7001 ((start.writeV 0 0xFF).writeV 15 0x55)).v[15] = 0x55 := by
  decide
/-- A4. -/
theorem test_ldReg : (run 0x8010 (start.writeV 1 0x77)).v[0] = 0x77 := by decide
/-- A5. -/
theorem test_orReg :
    (run 0x8011 (((start.writeV 0 0x0F).writeV 1 0xF0).writeV 15 0x55)).v[0] = 0xFF ∧
    (run 0x8011 (((start.writeV 0 0x0F).writeV 1 0xF0).writeV 15 0x55)).v[15] = 0x55 := by
  decide
/-- A6. -/
theorem test_andReg :
    (run 0x8012 (((start.writeV 0 0x3C).writeV 1 0x0F).writeV 15 0x55)).v[0] = 0x0C ∧
    (run 0x8012 (((start.writeV 0 0x3C).writeV 1 0x0F).writeV 15 0x55)).v[15] = 0x55 := by
  decide
/-- A7. -/
theorem test_xorReg :
    (run 0x8013 (((start.writeV 0 0x3C).writeV 1 0x0F).writeV 15 0x55)).v[0] = 0x33 ∧
    (run 0x8013 (((start.writeV 0 0x3C).writeV 1 0x0F).writeV 15 0x55)).v[15] = 0x55 := by
  decide
/-- L1.2. -/
theorem test_addReg_carry :
    (run 0x8014 ((start.writeV 0 0xFF).writeV 1 1)).v[0] = 0 ∧
    (run 0x8014 ((start.writeV 0 0xFF).writeV 1 1)).v[15] = 1 := by
  decide
/-- A11: the old VF is an operand. -/
theorem test_addReg_vf_operand :
    (run 0x81F4 ((start.writeV 1 0xFF).writeV 15 2)).v[1] = 1 ∧
    (run 0x81F4 ((start.writeV 1 0xFF).writeV 15 2)).v[15] = 1 := by
  decide
/-- L1.3. -/
theorem test_subReg_borrow :
    (run 0x8015 ((start.writeV 0 1).writeV 1 2)).v[0] = 0xFF ∧
    (run 0x8015 ((start.writeV 0 1).writeV 1 2)).v[15] = 0 := by
  decide
/-- A14: the flag overwrites the difference. -/
theorem test_subReg_vf_destination : (run 0x8F15 ((start.writeV 15 5).writeV 1 2)).v[15] = 1 := by decide
/-- A20: Y is ignored. -/
theorem test_shr_ignores_y :
    (run 0x8016 ((start.writeV 0 4).writeV 1 0xFF)).v[0] = 2 ∧
    (run 0x8016 ((start.writeV 0 4).writeV 1 0xFF)).v[15] = 0 ∧
    (run 0x8016 ((start.writeV 0 4).writeV 1 0xFF)).v[1] = 0xFF := by
  decide
/-- A21. -/
theorem test_shr_vf : (run 0x8F06 (start.writeV 15 3)).v[15] = 1 := by decide
/-- A17. -/
theorem test_subnReg_borrow :
    (run 0x8017 ((start.writeV 0 0xFF).writeV 1 1)).v[0] = 2 ∧
    (run 0x8017 ((start.writeV 0 0xFF).writeV 1 1)).v[15] = 0 := by
  decide
/-- A19. -/
theorem test_subnReg_equal :
    (run 0x8017 ((start.writeV 0 5).writeV 1 5)).v[0] = 0 ∧
    (run 0x8017 ((start.writeV 0 5).writeV 1 5)).v[15] = 1 := by
  decide
/-- L1.5. -/
theorem test_shl :
    (run 0x800E (start.writeV 0 0x81)).v[0] = 2 ∧
    (run 0x800E (start.writeV 0 0x81)).v[15] = 1 := by
  decide
/-- A24: never 0x80. -/
theorem test_shl_vf : (run 0x8F0E (start.writeV 15 0x81)).v[15] = 1 := by decide

/-! Index register and memory (L2.3). -/

/-- M2. -/
theorem test_ldI : (run 0xAFFF start).i = 0xFFF ∧ (run 0xAFFF start).pc = 0x202 := by decide
/-- M6. -/
theorem test_addI : (run 0xF01E ((start.writeI 0xF00).writeV 0 0xFF)).i = 0xFFF := by decide
/-- M5. -/
theorem test_addI_range :
    (run 0xF01E ((start.writeI 0xFFF).writeV 0 1)).fault = some ⟨.indexOutOfRange, 0x200, 0xF01E⟩ ∧
    (run 0xF01E ((start.writeI 0xFFF).writeV 0 1)).i = 0xFFF := by
  decide
/-- M10. -/
theorem test_ldF_low_nibble : (run 0xF429 (start.writeV 4 0x1A)).i = 0x032 := by decide
/-- L1.7. -/
theorem test_ldB : bytes 0x300 3 (run 0xF533 ((start.writeI 0x300).writeV 5 157)) = [1, 5, 7] := by decide
/-- M16, M17. -/
theorem test_ldB_range :
    bytes 0xFFD 3 (run 0xF533 ((start.writeI 0xFFD).writeV 5 123)) = [1, 2, 3] ∧
    (run 0xF533 ((start.writeI 0xFFE).writeV 5 123)).fault = some ⟨.memOutOfRange, 0x200, 0xF533⟩ ∧
    bytes 0xFFE 2 (run 0xF533 ((start.writeI 0xFFE).writeV 5 123)) = [0, 0] := by
  decide
/-- M18. -/
theorem test_storeRegs :
    bytes 0x300 3 (run 0xF155 ((((start.writeI 0x300).writeV 0 0xAA).writeV 1 0xBB).writeV 2 0xCC)) = [0xAA, 0xBB, 0] ∧
    (run 0xF155 (start.writeI 0x300)).i = 0x300 := by
  decide
/-- M19, M20. -/
theorem test_storeRegs_range :
    (run 0xF055 ((start.writeI 0xFFF).writeV 0 0x5A)).memRead 0xFFF = 0x5A ∧
    (run 0xF155 ((start.writeI 0xFFF).writeV 0 0x5A)).fault = some ⟨.memOutOfRange, 0x200, 0xF155⟩ := by
  decide
/-- M22. -/
theorem test_loadRegs :
    (run 0xF265 (((start.writeI 0x300).memWriteList 0x300 [0, 1, 5, 9]).writeV 3 0x77)).v.toList.take 4 = [0, 1, 5, 0x77] := by
  decide
/-- M24. -/
theorem test_loadRegs_font : (run 0xF165 start).v.toList.take 3 = [0xF0, 0x90, 0] := by decide

/-! Display (L2.4). -/

/-- D1, rows 5, 7 and 10. -/
theorem test_drw_glyph :
    lit [5, 7, 10] (run 0xD015 ((start.writeV 0 5).writeV 1 5)) =
      [(5, 5), (5, 6), (5, 7), (5, 8), (7, 5), (7, 8)] ∧
    (run 0xD015 ((start.writeV 0 5).writeV 1 5)).v[15] = 0 ∧
    (run 0xD015 ((start.writeV 0 5).writeV 1 5)).dispChanged = true := by
  decide
/-- D4 with a second row, as in D3, and D6. -/
theorem test_drw_wraps_and_collides :
    lit [0, 31] (run 0xD012 ((((start.writeI 0x300).memWriteList 0x300 [0x81, 0x80]).writeV 0 0xFF).writeV 1 0xFF)) = [(0, 63), (31, 6), (31, 63)] ∧
    lit [0] (run 0xD011 (light [(0, 1), (0, 2)] ((start.writeI 0x300).memWriteList 0x300 [0xC0]))) = [(0, 0), (0, 2)] ∧
    (run 0xD011 (light [(0, 1), (0, 2)] ((start.writeI 0x300).memWriteList 0x300 [0xC0]))).v[15] = 1 := by
  decide
/-- D13, D14. -/
theorem test_cls :
    lit [3] (run 0x00E0 (light [(3, 3)] (start.writeV 15 1))) = [] ∧
    (run 0x00E0 (light [(3, 3)] (start.writeV 15 1))).v[15] = 1 ∧
    (run 0x00E0 (light [(3, 3)] start)).dispChanged = true ∧
    (run 0x00E0 start).dispChanged = false := by
  decide

/-! Timers, keys, random (L2.5). -/

/-- K1. -/
theorem test_ldVxDT : (run 0xF207 (start.writeDT 6)).v[2] = 6 := by decide
/-- K2. -/
theorem test_ldDTVx : (run 0xF015 (start.writeV 0 0x0A)).dt = 10 := by decide
/-- K3, K4. -/
theorem test_ldSTVx :
    (run 0xF018 (start.writeV 0 0x0A)).st = 10 ∧
    tone (run 0xF018 (start.writeV 0 0x0A)) = true ∧
    tone (run 0xF018 (start.writeST 9)) = false := by
  decide
/-- K5, K6. -/
theorem test_skp :
    (run 0xE19E (((at_ 0x20A).writeV 1 7).writeKey 7 true)).pc = 0x20E ∧
    (run 0xE19E ((at_ 0x20A).writeV 1 7)).pc = 0x20C := by
  decide
/-- K9, K11. -/
theorem test_skp_faults :
    (run 0xE19E (start.writeV 1 0x10)).fault = some ⟨.keyIndexOutOfRange, 0x200, 0xE19E⟩ ∧
    (run 0xE09E ((at_ 0xFFC).writeKey 0 true)).fault = some ⟨.pcOutOfRange, 0xFFC, 0xE09E⟩ := by
  decide
/-- K7, K8. -/
theorem test_sknp :
    (run 0xE1A1 (((at_ 0x20A).writeV 1 7).writeKey 7 true)).pc = 0x20C ∧
    (run 0xE1A1 ((at_ 0x20A).writeV 1 7)).pc = 0x20E := by
  decide
/-- K10: no masking to 7. -/
theorem test_sknp_faults :
    (run 0xE1A1 ((start.writeV 1 0x17).writeKey 7 true)).fault = some ⟨.keyIndexOutOfRange, 0x200, 0xE1A1⟩ := by
  decide
/-- K16, K15. -/
theorem test_ldVxK_parks :
    (run 0xFF0A start).mode = .waitingForKey 15 ∧
    (run 0xFF0A start).pc = 0x200 ∧
    (run 0xF00A (at_ 0xFFE)).fault = some ⟨.pcOutOfRange, 0xFFE, 0xF00A⟩ ∧
    (run 0xF00A (at_ 0xFFE)).mode = .running := by
  decide
/-- K16, K17. -/
theorem test_ldVxK_resolves :
    (after .step { start.park 15 with keyLatch := some 3 }).v[15] = 3 ∧
    (after .step { start.park 15 with keyLatch := some 3 }).pc = 0x202 ∧
    (after .step (start.park 15)).mode = .waitingForKey 15 := by
  decide
/-- K12. -/
theorem test_rnd : (run 0xC30F { start with env := { Env.quiet with rndIn := [0xB7] } }).v[3] = 0x07 := by decide

/-! Events (L2.5, L2.6, L2.7). -/

/-- K16, K17. -/
theorem test_keySet_latches :
    (after (.keySet 3 true) (start.park 15)).keyLatch = some 3 ∧
    (after (.keySet 9 true) { start.park 15 with keyLatch := some 3 }).keyLatch = some 3 ∧
    (after (.keySet 5 false) (start.park 1)).keyLatch = none ∧
    (after (.keySet 4 true) start).keyLatch = none := by
  decide
/-- K19. -/
theorem test_timerTick :
    (after .timerTick { start with dt := 3, st := 1 }).dt = 2 ∧
    (after .timerTick { start with dt := 3, st := 1 }).st = 0 ∧
    (after .timerTick { start with dt := 0, st := 0 }).dt = 0 := by
  decide
/-- L2.6. -/
theorem test_unknown_lenient :
    (run 0x8ABD lenient).pc = 0x202 ∧
    (run 0x8ABD lenient).env.outputs = [.diagUnknownOpcode 0x200 0x8ABD] ∧
    (run 0x8ABD lenient).fault = none := by
  decide
/-- X1, X2. -/
theorem test_unknown_at_end :
    (run 0x0000 { lenient with pc := 0xFFE }).fault = some ⟨.pcOutOfRange, 0xFFE, 0x0000⟩ ∧
    (run 0x0000 { lenient with pc := 0xFFE }).env.outputs = [] ∧
    (run 0x0000 (at_ 0xFFE)).fault = some ⟨.unknownOpcode, 0xFFE, 0x0000⟩ := by
  decide
/-- K21. -/
theorem test_halted :
    (after .step (start.faulted .stackUnderflow 0x00EE)).fault = some ⟨.stackUnderflow, 0x200, 0x00EE⟩ ∧
    (after .step (start.faulted .stackUnderflow 0x00EE)).pc = 0x200 := by
  decide
/-- Z1. -/
theorem test_reset :
    bytes 0x000 5 (after (.reset 7) start) = [0xF0, 0x90, 0x90, 0x90, 0xF0] ∧
    bytes 0x04B 6 (after (.reset 7) start) = [0xF0, 0x80, 0xF0, 0x80, 0x80, 0] := by
  decide
/-- Z2, Z4. -/
theorem test_load :
    bytes 0x200 3 (after (.load [0x12, 0x00, 0x07]) start) = [0x12, 0x00, 0x07] ∧
    bytes 0x200 2 (after (.load [0xA2]) start) = [0xA2, 0x00] := by
  decide
/-- R193, on a machine whose LOAD_MAX is 2. -/
theorem test_load_truncates :
    bytes 0x200 3 (after (.load [1, 2, 3]) { start with cfg := { start.cfg with loadMax := 2 } }) = [1, 2, 0] ∧
    (after (.load [1, 2, 3]) { start with cfg := { start.cfg with loadMax := 2 } }).env.outputs = [.loadTruncated 3] := by
  decide
/-- R194. -/
theorem test_load_refused :
    refusalOf (handle (.load []) (after .step start)) = some .loadNotLegal ∧
    refusalOf (handle (.load []) (after (.load []) start)) = some .loadNotLegal := by
  decide
/-- Z6. -/
theorem test_reset_then_step : (after .step start).fault = some ⟨.unknownOpcode, 0x200, 0x0000⟩ := by decide
/-- R8, R9. -/
theorem test_schedule :
    (stateOf (step { start with env := { Env.quiet with schedule := [.timerTick] }, dt := 5 })).dt = 4 ∧
    (stateOf (step { start with env := { Env.quiet with schedule := [.timerTick] }, dt := 5 })).env.schedule = [] := by
  decide

/-! ## Witnesses: for each statement with hypotheses, values that meet them, at the ends of their ranges -/

/-- `Advances`: the last `pc` that can advance, and the end of memory. -/
theorem witness_advances : (at_ 0xFFC).CanAdvance ∧ (at_ 0x000).CanAdvance ∧ AtTheEnd (at_ 0xFFE) := by decide

/-- `Skips`: the last `pc` that can skip, the last that can advance, and the two ends. -/
theorem witness_skips : (at_ 0xFFA).CanSkip ∧ (at_ 0xFFC).CanAdvance ∧ 0xFFE < (at_ 0xFFC).pc.toNat + 4 ∧
    AtTheEnd (at_ 0xFFE) := by decide

theorem witness_DecodeGivesBackEncodedInstruction :
    (Instr.shl 15 15).wellFormed = true ∧ (Instr.jpV0 0xFFF).wellFormed = true := by decide
theorem witness_EncodeGivesBackDecodedWord : decodeWord 0x8FF6 = .ok (.shr 15 15) := by decide
theorem witness_DecoderFollowsOpcodeTable :
    decodeWord 0xF0FF = .error .unknownClassF ∧ decodeWord 0xFF65 = .ok (.loadRegs 15) := by decide
theorem witness_OpcodeTableRowsAreDisjoint : ∃ r ∈ opcodeTable, (0x8FF6 : Word) &&& r.mask = r.pat := by decide
theorem witness_UnknownWordsAreThoseListed :
    decodeWord 0x0FFF = .error .unknownClass0 ∧ (0x0FFF : Word).toNat < 0x1000 := by decide
theorem witness_StepPerformsTheNextEvent :
    State.reset.env.schedule = [] ∧
    { State.reset with env := { Env.quiet with schedule := [.keySet 15 true] } }.env.schedule = [.keySet 15 true] := by decide

/-- A word stands at the lowest and at the highest `pc`. -/
theorem witness_StepRunsTheDecodedInstruction :
    let s := (at_ 0xFFE).memWriteList 0xFFE [0x12, 0x34]
    s.Runs ∧ PcLegal s.pc ∧ decodeBytes [s.memRead s.pc.toNat, s.memRead (s.pc.toNat + 1)] = .ok (.jp 0x234, []) ∧
    s.env.schedule = [] ∧ PcLegal (at_ 0x000).pc ∧
    (s.setSchedule [.step, .timerTick]).env.schedule = [.step, .timerTick] := by decide

theorem witness_UnknownEncodingFollowsThePolicy :
    decodeWord (start.memReadWord start.pc.toNat) = .error .unknownClass0 ∧ start.Runs ∧ PcLegal start.pc ∧
    start.cfg.unknownPolicy = .strict ∧ lenient.cfg.unknownPolicy = .lenient ∧
    { lenient with pc := 0xFFC }.CanAdvance ∧ AtTheEnd { lenient with pc := 0xFFE } ∧ PcLegal 0xFFE ∧
    decodeWord ((at_ 0xFFE).memReadWord 0xFFE) = .error .unknownClass0 := by decide

theorem witness_HaltedStepOnlyClearsDispChanged :
    (start.faulted .pcMisaligned 0x1235).fault = some ⟨.pcMisaligned, 0x200, 0x1235⟩ := by decide

theorem witness_ParkedStepResolvesTheWait :
    (start.park 15).fault = none ∧ (start.park 15).mode = .waitingForKey 15 ∧ (start.park 15).keyLatch = none ∧
    ((start.park 15).writeLatch (some 0)).keyLatch = some 0 := by decide

theorem witness_FetchFromIllegalPcFaults : (at_ 0xFFF).Runs ∧ 0xFFE < (at_ 0xFFF).pc.toNat ∧
    (at_ 0xFFD).pc.toNat ≤ 0xFFE ∧ (at_ 0xFFD).pc.toNat % 2 = 1 := by decide

theorem witness_CheckPcTestsRangeThenAlignment :
    checkPc 0xFFF = .error .pcOutOfRange ∧ checkPc 0xFFD = .error .pcMisaligned ∧ checkPc 0xFFE = .ok 0xFFE ∧
    checkPc 0x1000 = .error .pcOutOfRange ∧ checkPc 1 = .error .pcMisaligned := by decide

/-- The store lands on the last two bytes of memory, which are the next instruction. -/
theorem witness_NextFetchSeesTheStore :
    let s := ((at_ 0xFFC).writeI 0xFFE).writeV 1 0xE0
    s.Runs ∧ s.CanAdvance ∧ s.i = s.pc + 2 ∧ s.addr 1 ≤ 0xFFF ∧
    decodeWord (wordOfBytes s.v[0] s.v[1]) = .ok .cls := by decide

theorem witness_SettledCoreStaysSettled : State.Settled ((at_ 0xFFE).memWriteList 0xFFE [0x1F, 0xFE]) := by
  unfold State.Settled
  decide

theorem witness_RetPopsIntoPc : start.sp.val = 0 ∧ (full start).sp = Fin.succ (15 : Fin 16) ∧
    (called 0x208 start).sp = Fin.succ (0 : Fin 16) := by decide

theorem witness_JpGoesToTheAddress : (0xFFF : Addr).toNat = 0xFFF ∧ (0xFFD : Addr).toNat ≠ 0xFFF ∧
    (0xFFD : Addr).toNat % 2 = 1 ∧ (0xFFE : Addr).toNat % 2 = 0 ∧ (0 : Addr).toNat % 2 = 0 := by decide

/-- The last free entry of the stack, at the last `pc` that has a return address, to the last address. -/
theorem witness_CallPushesTheNextAddress :
    (full start).sp.val = 16 ∧ (at_ 0xFFE).sp.val ≠ 16 ∧ AtTheEnd (at_ 0xFFE) ∧ (at_ 0xFFC).CanAdvance ∧
    { at_ 0xFFC with sp := 15 }.sp = Fin.castSucc (15 : Fin 16) ∧ (0xFFE : Addr).toNat % 2 = 0 ∧
    (0xFFF : Addr).toNat = 0xFFF ∧ (0x301 : Addr).toNat % 2 = 1 := by decide

theorem witness_JpV0AddsTheOffset :
    0xFFE < (0xFFE : Addr).toNat + (start.writeV 0 1).v[0].toNat ∧
    (0xFFD : Addr).toNat + start.v[0].toNat ≤ 0xFFE ∧ ((0xFFD : Addr).toNat + start.v[0].toNat) % 2 = 1 ∧
    (0xFFD : Addr).toNat + (start.writeV 0 1).v[0].toNat ≤ 0xFFE ∧
    ((0xFFD : Addr).toNat + (start.writeV 0 1).v[0].toNat) % 2 = 0 := by decide

theorem witness_SkipsOnImmediate : ((at_ 0xFFA).writeV 1 0xFF).v[1] = (0xFF : Byte) ∧ (at_ 0xFFC).v[1] ≠ (0xFF : Byte) ∧
    (at_ 0xFFA).CanSkip ∧ (at_ 0xFFC).CanAdvance ∧ 0xFFE < (at_ 0xFFC).pc.toNat + 4 ∧ AtTheEnd (at_ 0xFFE) := by decide

theorem witness_SkipsOnRegister : (at_ 0xFFA).v[1] = (at_ 0xFFA).v[2] ∧
    ((at_ 0xFFC).writeV 1 1).v[1] ≠ ((at_ 0xFFC).writeV 1 1).v[2] ∧ (at_ 0xFFA).CanSkip ∧ (at_ 0xFFC).CanAdvance ∧
    0xFFE < (at_ 0xFFC).pc.toNat + 4 ∧ AtTheEnd (at_ 0xFFE) := by decide

/-- After the call the stack holds the return address; the called code may have changed the rest. -/
theorem witness_ReturnUndoesCall :
    (at_ 0xFFC).sp = Fin.castSucc (0 : Fin 16) ∧ (at_ 0xFFC).CanAdvance ∧ (0x214 : Addr).toNat % 2 = 0 ∧
    (called 0xFFE (start.writeV 3 9)).sp = (run 0x2214 (at_ 0xFFC)).sp ∧
    (called 0xFFE (start.writeV 3 9)).stack[0] = (run 0x2214 (at_ 0xFFC)).stack[0] := by decide

theorem witness_LoadAndAddImmediate : (at_ 0xFFC).CanAdvance ∧ (at_ 0x000).CanAdvance ∧ AtTheEnd (at_ 0xFFE) := witness_advances

theorem witness_MoveAndLogic : (at_ 0xFFC).CanAdvance ∧ (at_ 0x000).CanAdvance ∧ AtTheEnd (at_ 0xFFE) := witness_advances

theorem witness_AddWithCarryOut : (at_ 0xFFC).CanAdvance ∧ (at_ 0x000).CanAdvance ∧ AtTheEnd (at_ 0xFFE) := witness_advances

theorem witness_SubtractWithNotBorrow : (at_ 0xFFC).CanAdvance ∧ (at_ 0x000).CanAdvance ∧ AtTheEnd (at_ 0xFFE) :=
  witness_advances

theorem witness_ShiftByOne : (at_ 0xFFC).CanAdvance ∧ (at_ 0x000).CanAdvance ∧ AtTheEnd (at_ 0xFFE) := witness_advances

theorem witness_OnlyFlagProducersTouchVF :
    start.fault = none ∧ exec (.addReg 0 1) start = .next (stateOf (exec (.addReg 0 1) start)) ∧
    (stateOf (exec (.addReg 0 1) start)).fault = none ∧ FlagProducing (.addReg 0 1) ∧ ¬ FlagProducing (.orReg 0 1) ∧
    ¬ MayWriteReg (.orReg 0 1) flagReg := by
  refine ⟨by decide, rfl, by decide, trivial, id, ?_⟩
  unfold MayWriteReg
  decide

theorem witness_IndexRegisterWrites :
    (at_ 0xFFC).CanAdvance ∧ AtTheEnd (at_ 0xFFE) ∧
    0xFFF < ((start.writeI 0xFFF).writeV 0 1).i.toNat + ((start.writeI 0xFFF).writeV 0 1).v[0].toNat ∧
    (start.writeI 0xFFF).i.toNat + (start.writeI 0xFFF).v[0].toNat ≤ 0xFFF := by decide

theorem witness_BcdStoresThreeDigits :
    0xFFF < (start.writeI 0xFFE).addr 2 ∧ (start.writeI 0xFFD).addr 2 ≤ 0xFFF ∧ ((at_ 0xFFC).writeI 0xFFD).CanAdvance ∧
    AtTheEnd ((at_ 0xFFE).writeI 0xFFD) := by decide

theorem witness_StoreWritesRegisterBlock :
    0xFFF < (start.writeI 0xFF1).addr 15 ∧ (start.writeI 0xFF0).addr 15 ≤ 0xFFF ∧
    ((at_ 0xFFC).writeI 0xFF0).CanAdvance ∧ AtTheEnd ((at_ 0xFFE).writeI 0xFF0) := by decide

theorem witness_LoadReadsRegisterBlock :
    0xFFF < (start.writeI 0xFFF).addr 1 ∧ (start.writeI 0xFFF).addr 0 ≤ 0xFFF ∧ ((at_ 0xFFC).writeI 0xFFF).CanAdvance ∧
    AtTheEnd ((at_ 0xFFE).writeI 0xFFF) := by decide

/-- Between the store and the load the registers were cleared. -/
theorem witness_LoadUndoesStore :
    let s := ((at_ 0xFFC).writeI 0xFFE).writeV 1 7
    let u := { run 0xF155 s with v := start.v, pc := 0x300 }
    s.CanAdvance ∧ s.addr 1 ≤ 0xFFF ∧ u.CanAdvance ∧ u.i = s.i ∧
    ∀ k : Fin 2, u.memRead (s.addr k.val) = (run 0xF155 s).memRead (s.addr k.val) := by decide

theorem witness_CanonicalMemoryIsDeterminedByReads :
    Memory.wf Config.defaultFont [(0x000, 1), (0xFFF, 2)] = true ∧ Memory.wf Config.defaultFont [(0x000, 0xF0)] = false ∧
    Memory.wf Config.defaultFont [(0x1000, 1)] = false ∧ Memory.wf Config.defaultFont [(2, 1), (1, 1)] = false := by
  decide

theorem witness_ClsClearsEveryPixel : (at_ 0xFFC).CanAdvance ∧ AtTheEnd (at_ 0xFFE) := by decide

/-- The sprite ends at `0xFFF`, passes it by one, or has no rows; its set bit lands on a set pixel or on none. -/
theorem witness_DrwXorsTheSprite :
    SpriteFits (start.writeI 0xFFE) 2 ∧ ¬ SpriteFits (start.writeI 0xFFF) 2 ∧ SpriteFits (start.writeI 0xFFF) 0 ∧
    (at_ 0xFFC).CanAdvance ∧ AtTheEnd (at_ 0xFFE) ∧
    SpriteCovers start 0 1 1 0 3 ∧ pixel (light [(0, 3)] start).disp 0 3 = true ∧ SpriteHasSetBit start 1 := by
  refine ⟨by decide, by decide, by decide, by decide, by decide, ?_, by decide, ?_⟩
  · exact ⟨0, by decide, 3, by decide, by decide, by decide, by decide⟩
  · exact ⟨0, by decide, 3, by decide, by decide⟩

/-- The second draw starts from the state the first one left, one instruction earlier. -/
theorem witness_SecondDrawRestoresTheDisplay :
    let s := at_ 0xFFC
    let u := { run 0xD015 s with pc := 0x200 }
    (0 : Reg) ≠ 15 ∧ (1 : Reg) ≠ 15 ∧ SpriteFits s 5 ∧ s.CanAdvance ∧ u.CanAdvance ∧ u.i = s.i ∧ u.v[0] = s.v[0] ∧
    u.v[1] = s.v[1] ∧ (∀ r < 5, u.memRead (s.addr r) = s.memRead (s.addr r)) ∧ pixel s.disp 0 0 = false := by decide

/-- L1.6: the second draw of the glyph, on the display that the first one left, with `VF = 1` as R143 says. -/
theorem test_second_draw_of_glyph :
    let s := light [(5, 5), (5, 6), (5, 7), (5, 8), (6, 5), (6, 8), (7, 5), (7, 8), (8, 5), (8, 8), (9, 5), (9, 6), (9, 7), (9, 8)]
      ((start.writeV 0 5).writeV 1 5)
    lit [5, 6, 9] (run 0xD015 s) = [] ∧ (run 0xD015 s).v[15] = 1 := by decide

/-- Where the first draw erases every pixel that it covers, the second one reports no collision (R141; log entry 22). -/
theorem test_second_draw_without_collision :
    (run 0xD011 ((light [(0, 0)] ((start.writeI 0x300).memWriteList 0x300 [0x80])))).v[15] = 1 ∧
    (run 0xD011 (((start.writeI 0x300).memWriteList 0x300 [0x80]).writeV 15 1)).v[15] = 0 := by decide

theorem witness_DispChangedTellsWhetherAPixelChanged :
    handle (.keySet 15 true) start = .next (after (.keySet 15 true) start) ∧
    handle (.load [1]) start = .next (after (.load [1]) start) := ⟨rfl, rfl⟩

theorem witness_TimerReadsAndWrites : (at_ 0xFFC).CanAdvance ∧ (at_ 0x000).CanAdvance ∧ AtTheEnd (at_ 0xFFE) :=
  witness_advances

theorem witness_KeySkips :
    0x0F < (start.writeV 1 0x10).v[1].toNat ∧ ((at_ 0xFFA).writeV 1 0x0F).v[1].toNat = (15 : KeyCode).val ∧
    (at_ 0xFFA).CanSkip ∧ (at_ 0xFFC).CanAdvance ∧ 0xFFE < (at_ 0xFFC).pc.toNat + 4 ∧ AtTheEnd (at_ 0xFFE) ∧
    (start.writeKey 15 true).keys[15] = true ∧ start.keys[15] = false := by decide

theorem witness_KeyWaitParksAndResolves :
    AtTheEnd (at_ 0xFFE) ∧ (at_ 0xFFC).CanAdvance ∧ ((start.park 15).writeLatch (some 15)).fault = none ∧
    ((start.park 15).writeLatch (some 15)).mode = .waitingForKey 15 ∧
    ((start.park 15).writeLatch (some 15)).keyLatch = some 15 := by decide

theorem witness_RndIsADrawUnderTheMask :
    AtTheEnd (at_ 0xFFE) ∧ (at_ 0xFFC).CanAdvance ∧ (at_ 0xFFC).env.rndIn = [] ∧
    { at_ 0xFFC with env := { Env.quiet with rndIn := [0xFF] } }.env.rndIn = [0xFF] := by decide

theorem witness_KeySetWritesKeyAndLatch :
    (start.park 0).keys[15] = false ∧ (start.park 0).mode = .waitingForKey 0 ∧ (start.park 0).fault = none ∧
    (start.park 0).keyLatch = none ∧ (start.writeKey 15 true).keys[15] = true ∧ start.mode = .running ∧
    refusalOf (handle (.keySet 16 true) start) = some .noSuchKey := by decide

theorem witness_ToneFollowsTheSoundTimer : (at_ 0xFFC).CanAdvance ∧ tone (start.writeST 1) = true ∧ tone start = false := by
  decide

theorem witness_FaultsArePrecise :
    start.fault = none ∧ exec .ret start = .next (stateOf (exec .ret start)) ∧
    (stateOf (exec .ret start)).fault ≠ none ∧ exec .cls start = .next (stateOf (exec .cls start)) ∧
    (stateOf (exec .cls start)).fault = none ∧ execUnknown 0 start = .next (stateOf (execUnknown 0 start)) := by
  exact ⟨rfl, rfl, by decide, rfl, by decide, rfl⟩

theorem witness_FaultKindsAreThoseListed :
    PcLegal start.pc ∧ start.fault = none ∧ exec .ret start = .next (stateOf (exec .ret start)) ∧
    (stateOf (exec .ret start)).fault = some ⟨.stackUnderflow, 0x200, 0x00EE⟩ := by
  exact ⟨by decide, rfl, rfl, by decide⟩

/-- A halted state that meets the invariants: the fault of a `RET` on an empty stack, after the first `Step`. -/
theorem witness_HaltedUntilReset :
    State.Inv (start.closeLoad.faulted .stackUnderflow 0x00EE) ∧
    (start.closeLoad.faulted .stackUnderflow 0x00EE).fault ≠ none ∧ (∀ seed, Event.step ≠ .reset seed) := by
  refine ⟨⟨by decide, by decide, by decide, by decide, by decide, ?_, by decide⟩, by decide, nofun⟩
  intro f hf
  injection hf with hf
  subst hf
  decide

/-- Each clause has an instruction that writes that state. -/
theorem witness_InstructionsWriteOnlyTheirState :
    ¬ MayWriteReg (.ldI 0x300) 0 ∧ exec (.ldI 0x300) start = .next (stateOf (exec (.ldI 0x300) start)) ∧
    (stateOf (exec (.ldI 0x300) start)).i ≠ start.i ∧ (stateOf (exec (.call 0x300) start)).stack ≠ start.stack ∧
    (stateOf (exec (.call 0x300) start)).sp ≠ start.sp ∧
    (stateOf (exec (.ldDTVx 1) (start.writeV 1 1))).dt ≠ start.dt ∧
    (stateOf (exec (.ldSTVx 1) (start.writeV 1 1))).st ≠ start.st ∧
    (stateOf (exec (.ldB 1) start)).mem ≠ start.mem ∧
    (stateOf (exec .cls (light [(0, 0)] start))).disp ≠ (light [(0, 0)] start).disp ∧
    (stateOf (exec (.ldVxK 15) start)).mode ≠ start.mode ∧ (stateOf (exec (.rnd 1 0) start)).env ≠ start.env := by
  exact ⟨id, rfl, by decide, by decide, by decide, by decide, by decide, by decide, by decide, by decide, by decide⟩

/-- A state deep in a run: memory written, a call open, the core parked with a key latched. -/
def deep : State :=
  { (called 0x208 (start.memWriteList 0x300 [1])).closeLoad with
    i := 0xFFF, pc := 0xFFC, mode := .waitingForKey 3, keyLatch := some 7 }

theorem witness_EveryStepKeepsTheInvariants : State.Inv deep ∧ step deep = .next (stateOf (step deep)) := by
  refine ⟨⟨by decide, by decide, by decide, by decide, by decide, nofun, by decide⟩, rfl⟩

theorem witness_ParametersAndWorldAreKept : step deep = .next (stateOf (step deep)) ∧ (at_ 0xFFC).CanAdvance ∧
    (at_ 0xFFC).env.rndIn = [] := ⟨rfl, by decide, rfl⟩

theorem witness_ResetWritesEveryRegister : 80 ≤ 0x050 ∧ 0x050 ≤ 0xFFF ∧ 80 ≤ 0xFFF := by decide

theorem witness_ResetInstallsTheFont : 80 ≤ 0x050 ∧ 0x050 ≤ 0xFFF ∧ 80 ≤ 0xFFF := by decide

theorem witness_LoadCopiesTheImage :
    start.loadable = true ∧ start.cfg.loadMax.val = 3583 ∧ 3582 < 3583 ∧ 0x200 + 3583 = 0xFFF ∧
    { start with cfg := { start.cfg with loadMax := 2 } }.cfg.loadMax.val < [(1 : Byte), 2, 3].length ∧
    [(1 : Byte), 2].length ≤ { start with cfg := { start.cfg with loadMax := 2 } }.cfg.loadMax.val := by decide

theorem witness_LoadOnlyDirectlyAfterReset :
    handle (.reset 0) start = .next (after (.reset 0) start) ∧ handle .step start = .next (after .step start) ∧
    handle (.load [1]) start = .next (after (.load [1]) start) ∧
    handle .timerTick start = .next (after .timerTick start) ∧
    handle (.keySet 0 true) start = .next (after (.keySet 0 true) start) ∧ start.closeLoad.loadable = false :=
  ⟨rfl, rfl, rfl, rfl, rfl, rfl⟩

theorem witness_LaunchState : [(0x12 : Byte), 0x00].length ≤ start.cfg.loadMax.val := by decide

end Sys2Proof.Tests
end

section
/-! PROOFS. `disp_changed` (10_state.md R38). Every way a `Step` can end writes the bit afresh from the display before and
after it: `raise`, the halted and the parked `Step` leave the display alone and write 0, `retire` compares the two
displays. So the bit is right after every `Step`, and no instruction can depend on its old value. -/

namespace Sys2Proof.Machine

/-! ## What a `Step` writes -/

/-- The outcome `o` of a `Step` from `s` is a next state in which `disp_changed` compares the display with that of `s`. -/
def RecordsDisplayChange (s : State) (o : Host.Outcome State Fault Refusal) : Prop :=
  ∃ t, o = .next t ∧ t.dispChanged = decide (t.disp ≠ s.disp)

/-- A next state with the display of `s` and the bit at 0 is right. -/
theorem recordsDisplayChange_of_sameDisplay (s t : State) (hd : t.disp = s.disp) (hc : t.dispChanged = false) :
    RecordsDisplayChange s (.next t) :=
  ⟨t, rfl, by simp [hd, hc]⟩

theorem raise_recordsDisplayChange (k : FaultKind) (op : Word) (s : State) : RecordsDisplayChange s (raise k op s) :=
  recordsDisplayChange_of_sameDisplay s (s.faulted k op) rfl rfl

theorem retire_recordsDisplayChange (s t : State) (p : Word) : RecordsDisplayChange s (retire s t p) :=
  ⟨_, retire_eq s t p, rfl⟩

theorem exec_recordsDisplayChange (i : Instr) (s : State) : RecordsDisplayChange s (exec i s) := by
  rcases exec_cases i s with ⟨k, h⟩ | ⟨p, -, h⟩
  · rw [h]
    exact raise_recordsDisplayChange k (encode i) s
  · rw [h]
    exact retire_recordsDisplayChange s (written i s) p

theorem execUnknown_recordsDisplayChange (op : Word) (s : State) : RecordsDisplayChange s (execUnknown op s) := by
  unfold execUnknown
  cases s.cfg.unknownPolicy with
  | strict => exact raise_recordsDisplayChange _ op s
  | lenient =>
    cases checkPc (s.pc.toNat + 2) with
    | error k => exact raise_recordsDisplayChange k op s
    | ok p => exact retire_recordsDisplayChange s _ p

theorem stepRunning_recordsDisplayChange (s : State) : RecordsDisplayChange s (stepRunning s) := by
  unfold stepRunning
  cases checkPc s.pc.toNat with
  | error k => exact raise_recordsDisplayChange k 0 s
  | ok _ =>
    cases decodeBytes (s.memReadList s.pc.toNat 2) with
    | ok fetched => exact exec_recordsDisplayChange fetched.1 s
    | error _ => exact execUnknown_recordsDisplayChange _ s

theorem stepHalted_recordsDisplayChange (s : State) : RecordsDisplayChange s (stepHalted s) :=
  recordsDisplayChange_of_sameDisplay s _ rfl rfl

theorem stepParked_recordsDisplayChange (x : Reg) (s : State) : RecordsDisplayChange s (stepParked x s) := by
  unfold stepParked
  cases s.keyLatch with
  | some c => exact recordsDisplayChange_of_sameDisplay s _ rfl rfl
  | none => exact recordsDisplayChange_of_sameDisplay s _ rfl rfl

/-- `coreStep` hands `s.closeLoad` to its three cases, and that has the display of `s`. -/
theorem coreStep_recordsDisplayChange (s : State) : RecordsDisplayChange s (coreStep s) := by
  unfold coreStep
  cases s.fault with
  | some _ => exact stepHalted_recordsDisplayChange s.closeLoad
  | none =>
    cases s.mode with
    | waitingForKey x => exact stepParked_recordsDisplayChange x s.closeLoad
    | running => exact stepRunning_recordsDisplayChange s.closeLoad

/-- The bit in the words of R38: some pixel differs. -/
theorem RecordsDisplayChange.exists_pixel_iff {s : State} {o : Host.Outcome State Fault Refusal}
    (h : RecordsDisplayChange s o) :
    ∃ t, o = .next t ∧ (t.dispChanged = true ↔ ∃ y x, pixel t.disp y x ≠ pixel s.disp y x) := by
  obtain ⟨t, ho, hc⟩ := h
  exact ⟨t, ho, by rw [hc, decide_eq_true_iff, display_ne_iff]⟩

/-! ## The host's events keep the bit -/

theorem keySet_dispChanged (code : Nat) (pressed : Bool) (s t : State) (h : keySet code pressed s = .next t) :
    t.dispChanged = s.dispChanged := by
  unfold keySet at h
  split at h
  · split at h <;> cases h <;> rfl
  · cases h

theorem State.reportTruncation_dispChanged (s : State) (image : List Byte) :
    (s.reportTruncation image).dispChanged = s.dispChanged := by
  unfold State.reportTruncation
  split <;> rfl

theorem loadEvent_dispChanged (image : List Byte) (s t : State) (h : loadEvent image s = .next t) :
    t.dispChanged = s.dispChanged := by
  unfold loadEvent at h
  split at h
  · cases h
    simp [State.reportTruncation_dispChanged]
  · cases h

/-! ## No instruction reads the bit -/

theorem State.rndTaken_of_dispChanged (s : State) (b : Bool) :
    { s with dispChanged := b }.rndTaken = { s.rndTaken with dispChanged := b } := by
  unfold State.rndTaken
  cases s.env.rndIn with
  | nil => rfl
  | cons _ _ => rfl

/-- `complete` overwrites the bit in each of its outcomes, whether it stood in `s` or in the writes `t`. -/
theorem complete_of_dispChanged (i : Instr) (s t : State) (target : Nat) (b : Bool) :
    complete i { s with dispChanged := b } { t with dispChanged := b } target = complete i s t target := by
  unfold complete
  cases checkPc target with
  | error k => rfl
  | ok p => rfl

/-- Every arm reads other fields only, and ends in `raise`, `retire` or `complete`, which overwrite the bit. In `CXNN` the
sampled port has to be moved past the update before this can be seen. -/
theorem exec_of_dispChanged (i : Instr) (s : State) (b : Bool) : exec i { s with dispChanged := b } = exec i s := by
  cases i with
  | rnd x nn =>
    show advance _ _ (State.writeV (State.rndTaken _) x (s.rndByte &&& nn)) = advance _ _ _
    rw [State.rndTaken_of_dispChanged]
    exact complete_of_dispChanged (.rnd x nn) s (s.rndTaken.writeV x (s.rndByte &&& nn)) _ b
  | _ => rfl

/-- Settles O38: the bit is right after every way a `Step` can end, the other events keep or clear it, and no instruction
depends on it. -/
theorem dispChangedTellsWhetherAPixelChanged : Obligations.DispChangedTellsWhetherAPixelChanged := by
  intro s
  have step_records := (coreStep_recordsDisplayChange s).exists_pixel_iff
  exact ⟨step_records, fun _ => ⟨resetEvent s, rfl, rfl⟩, ⟨timerTick s, rfl, rfl⟩,
    fun code pressed t => keySet_dispChanged code pressed s t, fun image t => loadEvent_dispChanged image s t,
    fun i b => exec_of_dispChanged i s b⟩

end Sys2Proof.Machine
end

section
/-! PROOFS. The halted and the parked `Step` (40_step_dispatch.md R90 to R92). `coreStep` tests the fault before the
mode; each of the two cases fetches nothing, and what it writes is said here once. -/

namespace Sys2Proof.Machine

/-! ## Which case a `Step` takes -/

/-- The fault is tested first: a halted core takes this case in either mode (R90). -/
theorem coreStep_of_fault {s : State} {f : FaultRecord} (h : s.fault = some f) :
    coreStep s = stepHalted s.closeLoad := by
  unfold coreStep
  rw [h]

theorem coreStep_of_parked {s : State} {x : Reg} (hf : s.fault = none) (hm : s.mode = .waitingForKey x) :
    coreStep s = stepParked x s.closeLoad := by
  unfold coreStep
  rw [hf, hm]

/-! ## What the parked case does -/

theorem stepParked_of_emptyLatch (x : Reg) {s : State} (h : s.keyLatch = none) :
    stepParked x s = .next { s with dispChanged := false } := by
  unfold stepParked
  rw [h]

/-- The wait is resolved without a fetch, and `pc + 2` is not checked again (R92). -/
theorem stepParked_of_latched (x : Reg) {s : State} {c : KeyCode} (h : s.keyLatch = some c) :
    stepParked x s = .next { (s.writeV x (keyByte c)).unpark with pc := s.pc + 2, dispChanged := false } := by
  unfold stepParked
  rw [h]

/-! ## The obligations -/

/-- Settles O10: a latched fault sends the `Step` to the halted case, which writes `disp_changed` only. -/
theorem haltedStepOnlyClearsDispChanged : Obligations.HaltedStepOnlyClearsDispChanged := by
  intro s f hf
  exact ⟨{ s.closeLoad with dispChanged := false }, coreStep_of_fault hf, rfl⟩

/-- Settles O11: without a fault a parked core takes the parked case, and the latch decides between its two outcomes. -/
theorem parkedStepResolvesTheWait : Obligations.ParkedStepResolvesTheWait := by
  intro s x hf hm
  have parked : handle .step s = stepParked x s.closeLoad := coreStep_of_parked hf hm
  constructor
  · intro hl
    exact ⟨_, parked.trans (stepParked_of_emptyLatch x hl), rfl⟩
  · intro c hl
    exact ⟨_, parked.trans (stepParked_of_latched x hl), rfl⟩

end Sys2Proof.Machine
end

section
/-! PROOFS. The words of the statements (30_encoding.md R71, R72, R76): arithmetic on numbers gives the formats of the
encoder, and the decoder gives back every instruction from its word. So a statement's `Encodes` needs nothing but the
word that `encode` gives. -/

namespace Sys2Proof.Rules

/-! ## The decoder on the encoder's word -/

/-- Each format shows its class, its selector and its operands to the decode algorithm of R74. -/
theorem decodeWord_encode (i : Instr) : decodeWord (encode i) = .ok i := by
  cases i with
  | cls | ret => rfl
  | jp nnn | call nnn | ldI nnn | jpV0 nnn => simp [encode, decodeWord, cOf_fmtAddr, nnnOf_fmtAddr]
  | seImm x nn | sneImm x nn | ldImm x nn | addImm x nn | rnd x nn =>
    simp [encode, decodeWord, cOf_fmtRegImm, xOf_fmtRegImm, nnOf_fmtRegImm]
  | seReg x y | sneReg x y | drw x y n =>
    simp [encode, decodeWord, cOf_fmtRegReg, xOf_fmtRegReg, yOf_fmtRegReg, nOf_fmtRegReg]
  | ldReg x y | orReg x y | andReg x y | xorReg x y | addReg x y | subReg x y | shr x y | subnReg x y | shl x y =>
    simp [encode, decodeWord, decodeClass8, cOf_fmtRegReg, xOf_fmtRegReg, yOf_fmtRegReg, nOf_fmtRegReg]
  | skp x | sknp x => simp [encode, decodeWord, decodeClassE, cOf_fmtRegImm, xOf_fmtRegImm, nnOf_fmtRegImm]
  | ldVxDT x | ldVxK x | ldDTVx x | ldSTVx x | addI x | ldF x | ldB x | storeRegs x | loadRegs x =>
    simp [encode, decodeWord, decodeClassF, cOf_fmtRegImm, xOf_fmtRegImm, nnOf_fmtRegImm]

theorem encodes_of_encode_eq {op : Word} {i : Instr} (h : encode i = op) : Encodes op i :=
  ⟨h ▸ decodeWord_encode i, h⟩

/-! ## The formats as arithmetic -/

theorem fmtAddr_eq_wordNNN (c : BitVec 4) (nnn : Addr) : fmtAddr c nnn = wordNNN c.toNat nnn := by
  rw [wordNNN, ← fmtAddr_toNat, BitVec.ofNat_toNat, BitVec.setWidth_eq]

theorem fmtRegImm_eq_wordXNN (c : BitVec 4) (x : Reg) (nn : Byte) : fmtRegImm c x nn = wordXNN c.toNat x nn.toNat := by
  rw [wordXNN, ← fmtRegImm_toNat, BitVec.ofNat_toNat, BitVec.setWidth_eq]

theorem fmtRegReg_eq_wordXYN (c : BitVec 4) (x y : Reg) (n : Fin 16) :
    fmtRegReg c x y n = wordXYN c.toNat x y n.val := by
  rw [wordXYN, ← fmtRegReg_toNat, BitVec.ofNat_toNat, BitVec.setWidth_eq]

end Sys2Proof.Rules
end

section
/-! PROOFS. Control flow (41_control_flow.md). The call stack is said in the terms of the statements, where a depth `k + 1`
names the entry `k`; every jump and skip is one of the cases of `complete`. -/

namespace Sys2Proof.Machine

open Rules

/-! ## The call stack at a known depth (R26) -/

theorem State.stackTop_of_sp_succ {s : State} {k : Fin 16} (hk : s.sp = k.succ) (h : 0 < s.sp.val) :
    s.stackTop h = s.stack[k] := by
  simp [State.stackTop, hk]

theorem State.pop_of_sp_succ {s : State} {k : Fin 16} (hk : s.sp = k.succ) :
    s.pop = { s with sp := k.castSucc } := by
  simp [State.pop, hk, Fin.ext_iff]

theorem State.push_of_sp_castSucc {s : State} {k : Fin 16} (hk : s.sp = k.castSucc) (h : s.sp.val < 16) (ret : Word) :
    s.push h ret = { s with stack := s.stack.set k ret, sp := k.succ } := by
  simp [State.push, hk, Fin.ext_iff]

/-! ## Targets of `CheckPc` -/

/-- The one address above the range of `CheckPc` is `0xFFF` (R94, R101). -/
theorem addr_inRange_iff (nnn : Addr) : nnn.toNat ≤ 0xFFE ↔ nnn.toNat ≠ 0xFFF := by
  have := nnn.isLt
  omega

theorem addr_inRange_of_even {nnn : Addr} (h : nnn.toNat % 2 = 0) : nnn.toNat ≤ 0xFFE := by
  rw [addr_inRange_iff]
  omega

/-- For writes that change no pixel, `disp_changed` ends at 0 (R38). -/
theorem complete_ok_sameDisplay (i : Instr) {s t : State} {target : Nat} (he : target % 2 = 0) (hr : target ≤ 0xFFE)
    (hd : t.disp = s.disp) :
    complete i s t target = .next { t with pc := BitVec.ofNat 16 target, dispChanged := false } := by
  rw [complete_ok i s t target he hr, hd]
  simp

/-! ## Return and call -/

theorem execRet_of_emptyStack {s : State} (h : s.sp.val = 0) :
    execRet s = .next (s.faulted .stackUnderflow (encode .ret)) := by
  rw [execRet, dif_neg (by omega), raise_eq]

theorem execRet_of_sp_succ {s : State} {k : Fin 16} (hk : s.sp = k.succ) :
    execRet s = .next { s with sp := k.castSucc, pc := s.stack[k], dispChanged := false } := by
  have h : 0 < s.sp.val := by simp [hk]
  rw [execRet, dif_pos h, retire_eq, State.stackTop_of_sp_succ hk, State.pop_of_sp_succ hk]
  simp

theorem execCall_of_fullStack (nnn : Addr) {s : State} (h : s.sp.val = 16) :
    execCall nnn s = .next (s.faulted .stackOverflow (encode (.call nnn))) := by
  rw [execCall, dif_neg (by omega), raise_eq]

theorem sp_lt_of_ne {s : State} (h : s.sp.val ≠ 16) : s.sp.val < 16 := by
  have := s.sp.isLt
  omega

/-- The return address is checked before the target (R102). -/
theorem execCall_atEnd (nnn : Addr) {s : State} (hsp : s.sp.val < 16) (h : AtTheEnd s) :
    execCall nnn s = .next (s.faulted .pcOutOfRange (encode (.call nnn))) := by
  rw [execCall, dif_pos hsp, checkPc_outOfRange _ h]
  rfl

/-- With room on the stack and a legal return address, only the check of the target is left. -/
theorem execCall_eq_complete (nnn : Addr) {s : State} (hsp : s.sp.val < 16) (h : s.CanAdvance) :
    execCall nnn s = complete (.call nnn) s (s.push hsp (s.pc + 2)) nnn.toNat := by
  have hck : checkPc (s.pc.toNat + 2) = .ok (s.pc + 2) := by
    rw [checkPc_ok _ (by omega) h.2, ofNat_toNat_add s.pc 2]
    rfl
  rw [execCall, dif_pos hsp, hck]

/-! ## Skips -/

theorem skipIf_true_outOfRange (i : Instr) {s : State} (h : 0xFFE < s.pc.toNat + 4) :
    skipIf true i s = .next (s.faulted .pcOutOfRange (encode i)) :=
  complete_outOfRange i s s _ h

theorem skipIf_false_atEnd (i : Instr) {s : State} (h : AtTheEnd s) :
    skipIf false i s = .next (s.faulted .pcOutOfRange (encode i)) :=
  complete_outOfRange i s s _ h

/-- An instruction that is `skipIf` of a test of `cond` skips on `cond`: the test picks the path, and `pc` decides
whether that path faults. -/
theorem skips_of_exec_eq_skipIf {op : Word} {i : Instr} {cond : State → Prop} {test : State → Bool}
    (hword : encode i = op) (hexec : ∀ s, exec i s = skipIf (test s) i s) (htest : ∀ s, test s = true ↔ cond s) :
    Skips op i cond := by
  subst hword
  have taken (s : State) (h : cond s) : exec i s = skipIf true i s := by
    rw [hexec, (htest s).mpr h]
  have notTaken (s : State) (h : ¬ cond s) : exec i s = skipIf false i s := by
    rw [hexec, Bool.eq_false_iff.mpr fun ht => h ((htest s).mp ht)]
  refine ⟨encodes_of_encode_eq rfl, fun s => ⟨?_, ?_, ?_, ?_⟩⟩
  · exact fun hc hpc => (taken s hc).trans (skipIf_true i s hpc)
  · exact fun hc hpc => (notTaken s hc).trans (skipIf_false i s hpc)
  · exact fun hc hpc => (taken s hc).trans (skipIf_true_outOfRange i hpc)
  · exact fun hc hpc => (notTaken s hc).trans (skipIf_false_atEnd i hpc)

/-! ## The obligations -/

/-- Settles O16: the stack is empty, or the entry below `sp` is popped into `pc`. -/
theorem retPopsIntoPc : Obligations.RetPopsIntoPc :=
  ⟨encodes_of_encode_eq rfl, fun _ => ⟨execRet_of_emptyStack, fun _ => execRet_of_sp_succ⟩⟩

/-- Settles O17: the jump is `complete` at the target `NNN`, which leaves the display alone. -/
theorem jpGoesToTheAddress : Obligations.JpGoesToTheAddress := by
  intro nnn
  have hword : encode (.jp nnn) = wordNNN 0x1 nnn := fmtAddr_eq_wordNNN 0x1 nnn
  rw [← hword]
  refine ⟨encodes_of_encode_eq rfl, fun s => ⟨?_, ?_, ?_⟩⟩
  · exact fun hlast => complete_outOfRange _ s s _ (by omega)
  · exact fun hne hodd => complete_misaligned _ s s _ hodd ((addr_inRange_iff nnn).mpr hne)
  · exact fun heven => complete_ok_sameDisplay _ heven (addr_inRange_of_even heven) rfl

/-- Settles O18: the checks of the stack and of the return address come first; past them the call is `complete` at the
target `NNN`, with the push as its writes. -/
theorem callPushesTheNextAddress : Obligations.CallPushesTheNextAddress := by
  intro nnn
  have hword : encode (.call nnn) = wordNNN 0x2 nnn := fmtAddr_eq_wordNNN 0x2 nnn
  rw [← hword]
  refine ⟨encodes_of_encode_eq rfl, fun s => ⟨execCall_of_fullStack nnn, ?_, ?_, ?_, ?_⟩⟩
  · exact fun hsp hend => execCall_atEnd nnn (sp_lt_of_ne hsp) hend
  · intro hsp hadv hlast
    exact (execCall_eq_complete nnn (sp_lt_of_ne hsp) hadv).trans (complete_outOfRange _ s _ _ (by omega))
  · intro hsp hadv hne hodd
    exact (execCall_eq_complete nnn (sp_lt_of_ne hsp) hadv).trans
      (complete_misaligned _ s _ _ hodd ((addr_inRange_iff nnn).mpr hne))
  · intro k hk hadv heven
    have hsp : s.sp.val < 16 := by simp [hk]
    calc exec (.call nnn) s
      _ = complete (.call nnn) s (s.push hsp (s.pc + 2)) nnn.toNat := execCall_eq_complete nnn hsp hadv
      _ = .next { s.push hsp (s.pc + 2) with pc := BitVec.ofNat 16 nnn.toNat, dispChanged := false } :=
        complete_ok_sameDisplay _ heven (addr_inRange_of_even heven) rfl
      _ = _ := by rw [State.push_of_sp_castSucc hk]

/-- Settles O19: the jump is `complete` at the unbounded sum, which leaves the display alone. -/
theorem jpV0AddsTheOffset : Obligations.JpV0AddsTheOffset := by
  intro nnn
  have hword : encode (.jpV0 nnn) = wordNNN 0xB nnn := fmtAddr_eq_wordNNN 0xB nnn
  rw [← hword]
  refine ⟨encodes_of_encode_eq rfl, fun s => ⟨?_, ?_, ?_⟩⟩
  · exact fun habove => complete_outOfRange _ s s _ habove
  · exact fun hle hodd => complete_misaligned _ s s _ hodd hle
  · exact fun hle heven => complete_ok_sameDisplay _ heven hle rfl

/-- Settles O20: both are `skipIf` of the comparison with the immediate. -/
theorem skipsOnImmediate : Obligations.SkipsOnImmediate := by
  intro x nn
  constructor
  · exact skips_of_exec_eq_skipIf (fmtRegImm_eq_wordXNN 0x3 x nn) (fun _ => rfl) fun _ => beq_iff_eq
  · exact skips_of_exec_eq_skipIf (fmtRegImm_eq_wordXNN 0x4 x nn) (fun _ => rfl) fun _ => bne_iff_ne

/-- Settles O21: both are `skipIf` of the comparison of the two registers. -/
theorem skipsOnRegister : Obligations.SkipsOnRegister := by
  intro x y
  constructor
  · exact skips_of_exec_eq_skipIf (fmtRegReg_eq_wordXYN 0x5 x y 0) (fun _ => rfl) fun _ => beq_iff_eq
  · exact skips_of_exec_eq_skipIf (fmtRegReg_eq_wordXYN 0x9 x y 0) (fun _ => rfl) fun _ => bne_iff_ne

end Sys2Proof.Machine
end

section
/-! PROOFS. Load, arithmetic, logic, shifts (42_alu.md). Every one of them is `advance` on its writes; what is left to say of each
is that its writes, given on bytes, are those of the spec, given on numbers (R121). -/

namespace Sys2Proof.Machine

open Rules

/-! ## Instructions that end with `Advance()` (R95) -/

/-- An instruction that is `advance` on its writes and changes no pixel advances with those writes as its effect: `pc`
alone decides whether it completes. -/
theorem advances_of_exec_eq_advance {op : Word} {i : Instr} {effect : State → State} (hword : encode i = op)
    (hexec : ∀ s, exec i s = advance i s (written i s)) (hwritten : ∀ s, written i s = effect s)
    (hdisp : ∀ s, (effect s).disp = s.disp) : Advances op i effect := by
  subst hword
  have hadvance (s : State) : exec i s = advance i s (effect s) := by rw [hexec, hwritten]
  refine ⟨encodes_of_encode_eq rfl, fun s => ⟨?_, ?_⟩⟩
  · exact fun hpc => (hadvance s).trans (advance_ok_sameDisplay i s _ hpc (hdisp s))
  · exact fun hend => (hadvance s).trans (advance_atEnd i s _ hend)

/-! ## Shifts as arithmetic (R118, R120) -/

theorem byte_ushiftRight_one_eq (a : Byte) : a >>> 1 = BitVec.ofNat 8 (a.toNat / 2) := by
  have ha := a.isLt
  apply BitVec.eq_of_toNat_eq
  simp only [BitVec.toNat_ushiftRight, BitVec.toNat_ofNat, Nat.shiftRight_eq_div_pow]
  omega

theorem byte_shiftLeft_one_eq (a : Byte) : a <<< 1 = BitVec.ofNat 8 (a.toNat * 2 % 256) := by
  apply BitVec.eq_of_toNat_eq
  simp [Nat.shiftLeft_eq]

/-! ## The writes on numbers -/

theorem written_addImm_eq (x : Reg) (nn : Byte) (s : State) :
    written (.addImm x nn) s = { s with v := s.v.set x (BitVec.ofNat 8 ((s.v[x].toNat + nn.toNat) % 256)) } := by
  rw [← byte_add_eq]
  rfl

theorem written_addReg_eq (x y : Reg) (s : State) :
    written (.addReg x y) s = { s with
      v := (s.v.set x (BitVec.ofNat 8 ((s.v[x].toNat + s.v[y].toNat) % 256))).set 15
        (if 255 < s.v[x].toNat + s.v[y].toNat then 1 else 0) } := by
  rw [← byte_add_eq, ← carry_eq]
  rfl

theorem written_subReg_eq (x y : Reg) (s : State) :
    written (.subReg x y) s = { s with
      v := (s.v.set x (BitVec.ofNat 8 ((s.v[x].toNat + 256 - s.v[y].toNat) % 256))).set 15
        (if s.v[y].toNat ≤ s.v[x].toNat then 1 else 0) } := by
  rw [← byte_sub_eq, ← notBorrow_eq]
  rfl

/-- The destination is that of `SUB`, and the operands are exchanged (R119). -/
theorem written_subnReg_eq (x y : Reg) (s : State) :
    written (.subnReg x y) s = { s with
      v := (s.v.set x (BitVec.ofNat 8 ((s.v[y].toNat + 256 - s.v[x].toNat) % 256))).set 15
        (if s.v[x].toNat ≤ s.v[y].toNat then 1 else 0) } := by
  rw [← byte_sub_eq, ← notBorrow_eq]
  rfl

theorem written_shr_eq (x y : Reg) (s : State) :
    written (.shr x y) s = { s with
      v := (s.v.set x (BitVec.ofNat 8 (s.v[x].toNat / 2))).set 15 (BitVec.ofNat 8 (s.v[x].toNat % 2)) } := by
  rw [← byte_ushiftRight_one_eq, ← shiftedOutRight_eq]
  rfl

theorem written_shl_eq (x y : Reg) (s : State) :
    written (.shl x y) s = { s with
      v := (s.v.set x (BitVec.ofNat 8 (s.v[x].toNat * 2 % 256))).set 15 (BitVec.ofNat 8 (s.v[x].toNat / 128)) } := by
  rw [← byte_shiftLeft_one_eq, ← shiftedOutLeft_eq]
  rfl

/-! ## The obligations -/

/-- Settles O23: the load writes its immediate, the sum on bytes is the sum modulo 256. -/
theorem loadAndAddImmediate : Obligations.LoadAndAddImmediate := by
  intro x nn
  constructor
  · exact advances_of_exec_eq_advance (fmtRegImm_eq_wordXNN 0x6 x nn) (fun _ => rfl) (fun _ => rfl) fun _ => rfl
  · exact advances_of_exec_eq_advance (fmtRegImm_eq_wordXNN 0x7 x nn) (fun _ => rfl)
      (written_addImm_eq x nn) fun _ => rfl

/-- Settles O24: the four words differ in their selector `N`, and each instruction writes `V[X]` alone. -/
theorem moveAndLogic : Obligations.MoveAndLogic := by
  intro x y
  refine ⟨?_, ?_, ?_, ?_⟩
  · exact advances_of_exec_eq_advance (fmtRegReg_eq_wordXYN 0x8 x y 0x0) (fun _ => rfl) (fun _ => rfl) fun _ => rfl
  · exact advances_of_exec_eq_advance (fmtRegReg_eq_wordXYN 0x8 x y 0x1) (fun _ => rfl) (fun _ => rfl) fun _ => rfl
  · exact advances_of_exec_eq_advance (fmtRegReg_eq_wordXYN 0x8 x y 0x2) (fun _ => rfl) (fun _ => rfl) fun _ => rfl
  · exact advances_of_exec_eq_advance (fmtRegReg_eq_wordXYN 0x8 x y 0x3) (fun _ => rfl) (fun _ => rfl) fun _ => rfl

/-- Settles O25: the sum on bytes is the sum modulo 256, and the flag, written last, is its carry. -/
theorem addWithCarryOut : Obligations.AddWithCarryOut := by
  intro x y
  exact advances_of_exec_eq_advance (fmtRegReg_eq_wordXYN 0x8 x y 0x4) (fun _ => rfl)
    (written_addReg_eq x y) fun _ => rfl

/-- Settles O26: the difference on bytes is the difference modulo 256, and the flag compares the operands as numbers. -/
theorem subtractWithNotBorrow : Obligations.SubtractWithNotBorrow := by
  intro x y
  constructor
  · exact advances_of_exec_eq_advance (fmtRegReg_eq_wordXYN 0x8 x y 0x5) (fun _ => rfl)
      (written_subReg_eq x y) fun _ => rfl
  · exact advances_of_exec_eq_advance (fmtRegReg_eq_wordXYN 0x8 x y 0x7) (fun _ => rfl)
      (written_subnReg_eq x y) fun _ => rfl

/-- Settles O27: a shift by one halves or doubles, and the bit shifted out is the remainder or the top bit. -/
theorem shiftByOne : Obligations.ShiftByOne := by
  intro x y
  constructor
  · exact advances_of_exec_eq_advance (fmtRegReg_eq_wordXYN 0x8 x y 0x6) (fun _ => rfl)
      (written_shr_eq x y) fun _ => rfl
  · exact advances_of_exec_eq_advance (fmtRegReg_eq_wordXYN 0x8 x y 0xE) (fun _ => rfl)
      (written_shl_eq x y) fun _ => rfl

end Sys2Proof.Machine
end

section
/-! PROOFS. Index register and memory (43_index_memory.md). `FX1E` and the three memory instructions test a sum against
`0xFFF` and only then are `advance` on their writes. That order of checks is said once; what is left of each instruction is
what its writes are read back as. -/

namespace Sys2Proof.Machine

open Rules

/-! ## Instructions that check a sum and end with `Advance()` (R52, R131) -/

/-- `Advances`, behind a check: where `top s` is above `0xFFF` the instruction raises `k`, whatever `pc` is. -/
def AdvancesWithin (op : Word) (i : Instr) (k : FaultKind) (top : State → Nat) (effect : State → State) : Prop :=
  Encodes op i ∧ ∀ s : State,
    (0xFFF < top s → exec i s = .next (s.faulted k op)) ∧
    (top s ≤ 0xFFF → AtTheEnd s → exec i s = .next (s.faulted .pcOutOfRange op)) ∧
    (top s ≤ 0xFFF → s.CanAdvance → exec i s = .next { effect s with pc := s.pc + 2, dispChanged := false })

theorem advancesWithin_of_exec_eq_ite {op : Word} {i : Instr} {k : FaultKind} {top : State → Nat}
    {effect : State → State} (hword : encode i = op)
    (hexec : ∀ s, exec i s = if 0xFFF < top s then raise k (encode i) s else advance i s (effect s))
    (hdisp : ∀ s, (effect s).disp = s.disp) : AdvancesWithin op i k top effect := by
  subst hword
  have hfits (s : State) (h : top s ≤ 0xFFF) : exec i s = advance i s (effect s) :=
    (hexec s).trans (if_neg (Nat.not_lt.mpr h))
  refine ⟨encodes_of_encode_eq rfl, fun s => ⟨?_, ?_, ?_⟩⟩
  · exact fun habove => (hexec s).trans (if_pos habove)
  · exact fun h hend => (hfits s h).trans (advance_atEnd i s _ hend)
  · exact fun h hadv => (hfits s h).trans (advance_ok_sameDisplay i s _ hadv (hdisp s))

/-- The memory check, in the form of the memory instructions, is such a check of their highest address `I + n`. -/
theorem advancesWithin_of_exec_eq_memFits {op : Word} {i : Instr} {n : Nat} {effect : State → State}
    (hword : encode i = op)
    (hexec : ∀ s, exec i s =
      if memFits (s.addr n) then advance i s (effect s) else raise .memOutOfRange (encode i) s)
    (hdisp : ∀ s, (effect s).disp = s.disp) : AdvancesWithin op i .memOutOfRange (fun s => s.addr n) effect := by
  refine advancesWithin_of_exec_eq_ite hword (fun s => ?_) hdisp
  simp only [hexec, memFits_iff, ← Nat.not_lt, ite_not]

/-- What holds of the effect and the new `pc` holds of the state in which the instruction completes. -/
theorem AdvancesWithin.completes {op : Word} {i : Instr} {k : FaultKind} {top : State → Nat} {effect : State → State}
    {post : State → State → Prop} (h : AdvancesWithin op i k top effect)
    (hpost : ∀ s, post s { effect s with pc := s.pc + 2, dispChanged := false }) :
    Encodes op i ∧ ∀ s : State,
      (0xFFF < top s → exec i s = .next (s.faulted k op)) ∧
      (top s ≤ 0xFFF → AtTheEnd s → exec i s = .next (s.faulted .pcOutOfRange op)) ∧
      (top s ≤ 0xFFF → s.CanAdvance → ∃ t, exec i s = .next t ∧ post s t) := by
  obtain ⟨hencodes, hexec⟩ := h
  refine ⟨hencodes, fun s => ?_⟩
  obtain ⟨habove, hend, hadv⟩ := hexec s
  exact ⟨habove, hend, fun hfits hpc => ⟨_, hadv hfits hpc, hpost s⟩⟩

/-! ## A block of bytes written from `I` upward (R58) -/

theorem State.memRead_memWriteList_inside (s : State) (a : Nat) (bs : List Byte) (k : Nat) (h : k < bs.length) :
    (s.memWriteList a bs).memRead (a + k) = bs[k] := by
  rw [State.memRead_memWriteList, dif_pos (by omega)]
  simp

theorem State.memRead_memWriteList_outside (s : State) (a : Nat) (bs : List Byte) (c : Nat)
    (h : c < a ∨ a + bs.length ≤ c) : (s.memWriteList a bs).memRead c = s.memRead c := by
  rw [State.memRead_memWriteList, dif_neg (by omega)]

/-- `s.addr n` is the last address of a block of `n + 1` bytes at `I`. -/
theorem State.memRead_outside_block (s : State) {bs : List Byte} {n : Nat} (hlen : bs.length = n + 1) (c : Nat)
    (h : c < s.addr 0 ∨ s.addr n < c) : (s.memWriteList (s.addr 0) bs).memRead c = s.memRead c := by
  unfold State.addr at h ⊢
  exact s.memRead_memWriteList_outside _ bs c (by omega)

/-- The byte at `I + k` after `V[0..X]` was stored at `I` (R134). -/
theorem State.memRead_stored_block (s : State) {x k : Reg} (h : k ≤ x) :
    (s.memWriteList (s.addr 0) (s.vUpTo x)).memRead (s.addr k.val) = s.v[k] := by
  have hk : k.val < (s.vUpTo x).length := by
    rw [vUpTo_length]
    exact Nat.lt_succ_of_le h
  calc (s.memWriteList (s.addr 0) (s.vUpTo x)).memRead (s.addr 0 + k.val)
    _ = (s.vUpTo x)[k.val] := s.memRead_memWriteList_inside _ _ _ hk
    _ = s.v[k] := vUpTo_get s x k.val hk k.isLt

/-- Register `k` after `V[0..X]` was loaded from `I` (R135). -/
theorem written_loadRegs_v (x k : Reg) (s : State) :
    (written (.loadRegs x) s).v[k] = if k ≤ x then s.memRead (s.addr k.val) else s.v[k] :=
  s.readV_writeVUpTo x k fun j => s.memRead (s.addr j)

/-! ## The values of `I` as numbers (R130, R132) -/

theorem written_ldI_eq (nnn : Addr) (s : State) : written (.ldI nnn) s = { s with i := BitVec.ofNat 16 nnn.toNat } := by
  rw [BitVec.ofNat_toNat]
  rfl

/-- The font begins at address 0, so the glyph's offset in it is its address. -/
theorem written_ldF_eq (x : Reg) (s : State) :
    written (.ldF x) s = { s with i := BitVec.ofNat 16 (0x000 + 5 * (s.v[x].toNat % 16)) } := by
  rw [Nat.zero_add]
  rfl

/-! ## The obligations -/

/-- Settles O29: the loads of `I` only advance; the addition first checks its sum against `0xFFF`. -/
theorem indexRegisterWrites : Obligations.IndexRegisterWrites := by
  refine ⟨fun nnn => ?_, fun x => ?_, fun x => ?_⟩
  · exact advances_of_exec_eq_advance (fmtAddr_eq_wordNNN 0xA nnn) (fun _ => rfl) (written_ldI_eq nnn) fun _ => rfl
  · exact advances_of_exec_eq_advance (fmtRegImm_eq_wordXNN 0xF x 0x29) (fun _ => rfl) (written_ldF_eq x) fun _ => rfl
  · exact advancesWithin_of_exec_eq_ite (top := fun s => s.i.toNat + s.v[x].toNat)
      (effect := fun s => { s with i := BitVec.ofNat 16 (s.i.toNat + s.v[x].toNat) })
      (fmtRegImm_eq_wordXNN 0xF x 0x1E) (fun _ => rfl) fun _ => rfl

/-- Settles O30: past the checks the writes are the three digits as a block at `I`. -/
theorem bcdStoresThreeDigits : Obligations.BcdStoresThreeDigits := by
  intro x
  have hexec : AdvancesWithin (wordXNN 0xF x 0x33) (.ldB x) .memOutOfRange (fun s => s.addr 2) (written (.ldB x)) :=
    advancesWithin_of_exec_eq_memFits (fmtRegImm_eq_wordXNN 0xF x 0x33) (fun _ => rfl) fun _ => rfl
  refine hexec.completes fun s => ⟨?_, ?_, ?_, ?_, rfl⟩
  · exact s.memRead_memWriteList_inside (s.addr 0) (bcdDigits s.v[x]) 0 (by simp [bcdDigits_length])
  · exact s.memRead_memWriteList_inside (s.addr 0) (bcdDigits s.v[x]) 1 (by simp [bcdDigits_length])
  · exact s.memRead_memWriteList_inside (s.addr 0) (bcdDigits s.v[x]) 2 (by simp [bcdDigits_length])
  · exact s.memRead_outside_block (bcdDigits_length s.v[x])

/-- Settles O31: past the checks the writes are the registers as a block at `I`. -/
theorem storeWritesRegisterBlock : Obligations.StoreWritesRegisterBlock := by
  intro x
  have hexec : AdvancesWithin (wordXNN 0xF x 0x55) (.storeRegs x) .memOutOfRange (fun s => s.addr x.val)
      (written (.storeRegs x)) :=
    advancesWithin_of_exec_eq_memFits (fmtRegImm_eq_wordXNN 0xF x 0x55) (fun _ => rfl) fun _ => rfl
  refine hexec.completes fun s => ⟨?_, ?_, rfl⟩
  · exact fun k hk => s.memRead_stored_block hk
  · exact s.memRead_outside_block (vUpTo_length s x)

/-- Settles O32: past the checks each register up to `X` receives its byte, and the others are not written. -/
theorem loadReadsRegisterBlock : Obligations.LoadReadsRegisterBlock := by
  intro x
  have hexec : AdvancesWithin (wordXNN 0xF x 0x65) (.loadRegs x) .memOutOfRange (fun s => s.addr x.val)
      (written (.loadRegs x)) :=
    advancesWithin_of_exec_eq_memFits (fmtRegImm_eq_wordXNN 0xF x 0x65) (fun _ => rfl) fun _ => rfl
  refine hexec.completes fun s => ⟨?_, ?_, rfl⟩
  · exact fun k hk => (written_loadRegs_v x k s).trans (if_pos hk)
  · exact fun k hk => (written_loadRegs_v x k s).trans (if_neg (Fin.not_le.mpr hk))

end Sys2Proof.Machine
end

section
/-! PROOFS. Display (44_display.md). Both instructions are `advance` on a new display, so `disp_changed` says whether
that display differs in a pixel. The statements give a sprite as bytes read from `I`, and the blitter's laws give it as a
list of rows; the two cover the same pixels. -/

namespace Sys2Proof.Machine

open Rules

/-- Where `pc` can advance, `disp_changed` ends at 1 iff the writes have left some pixel different (R38). -/
theorem advance_ok_dispChanged (i : Instr) (s t : State) (h : s.CanAdvance) :
    ∃ b, advance i s t = .next { t with pc := s.pc + 2, dispChanged := b } ∧
      (b = true ↔ ∃ y x, pixel t.disp y x ≠ pixel s.disp y x) :=
  ⟨_, advance_ok i s t h, by rw [decide_eq_true_iff, display_ne_iff]⟩

/-! ## The sprite of a `DXYN` (R141, R142) -/

/-- The sprite ends at `I + N - 1`, so the check of that address passes iff the sprite fits. -/
theorem memFits_iff_spriteFits (s : State) (n : Rows) :
    n.val = 0 ∨ memFits (s.addr (n.val - 1)) = true ↔ SpriteFits s n := by
  rw [memFits_iff, State.addr, SpriteFits]
  omega

theorem spriteRows_length (s : State) (n : Rows) : (s.spriteRows n).length = n.val :=
  s.memReadList_length _ _

theorem spriteRows_length_le (s : State) (n : Rows) : (s.spriteRows n).length ≤ 32 := by
  rw [spriteRows_length]
  omega

theorem spriteRows_get (s : State) (n : Rows) (r : Nat) (h : r < (s.spriteRows n).length) :
    (s.spriteRows n)[r] = s.memRead (s.addr r) :=
  s.memReadList_get _ _ r h

/-- The rows that the blitter is given cover the pixels that the sprite covers. -/
theorem rowsCover_spriteRows_iff (s : State) (x y : Reg) (n : Rows) (yy : Fin 32) (xx : Fin 64) :
    RowsCover (s.spriteRows n) (s.readV x).toNat (s.readV y).toNat yy xx ↔ SpriteCovers s x y n yy xx := by
  constructor
  · rintro ⟨r, hr, hrow, j, hj, hbit, hcol⟩
    rw [spriteRows_get] at hbit
    rw [spriteRows_length] at hr
    exact ⟨r, hr, j, hj, hbit, congrArg Fin.val hrow, congrArg Fin.val hcol⟩
  · rintro ⟨r, hr, j, hj, hbit, hrow, hcol⟩
    rw [← spriteRows_length s n] at hr
    rw [← spriteRows_get s n r hr] at hbit
    exact ⟨r, hr, Fin.ext hrow, j, hj, hbit, Fin.ext hcol⟩

/-- Coordinates wrap, so every set bit lands on some pixel: none is clipped (R142). -/
theorem exists_spriteCovers_iff (s : State) (x y : Reg) (n : Rows) :
    (∃ yy xx, SpriteCovers s x y n yy xx) ↔ SpriteHasSetBit s n := by
  constructor
  · rintro ⟨_, _, r, hr, j, hj, hbit, -, -⟩
    exact ⟨r, hr, j, hj, hbit⟩
  · rintro ⟨r, hr, j, hj, hbit⟩
    exact ⟨wrapRow (s.v[y].toNat + r), wrapColumn (s.v[x].toNat + j), r, hr, j, hj, hbit, rfl, rfl⟩

/-! ## What `DXYN` does -/

theorem execDrw_of_not_fits (x y : Reg) {s : State} {n : Rows} (h : ¬ SpriteFits s n) :
    exec (.drw x y n) s = .next (s.faulted .memOutOfRange (encode (.drw x y n))) :=
  if_neg (mt (memFits_iff_spriteFits s n).mp h)

/-- Past the memory check, only the check of `pc` is left. -/
theorem execDrw_eq_advance (x y : Reg) {s : State} {n : Rows} (h : SpriteFits s n) :
    exec (.drw x y n) s = advance (.drw x y n) s (written (.drw x y n) s) :=
  if_pos ((memFits_iff_spriteFits s n).mpr h)

theorem written_drw_pixel (s : State) (x y : Reg) (n : Rows) (yy : Fin 32) (xx : Fin 64) :
    pixel (written (.drw x y n) s).disp yy xx ≠ pixel s.disp yy xx ↔ SpriteCovers s x y n yy xx :=
  (draw_pixel s.disp _ _ _ (spriteRows_length_le s n) yy xx).trans (rowsCover_spriteRows_iff s x y n yy xx)

/-- `VF` is the collision flag: 1 iff a covered pixel was set (R141). -/
theorem written_drw_flag (s : State) (x y : Reg) (n : Rows) :
    ∃ c, (written (.drw x y n) s).v[15] = flagByte c ∧
      (c = true ↔ ∃ yy xx, pixel s.disp yy xx = true ∧ SpriteCovers s x y n yy xx) := by
  refine ⟨_, Vector.getElem_set_self _, ?_⟩
  rw [draw_collision _ _ _ _ (spriteRows_length_le s n)]
  simp only [rowsCover_spriteRows_iff]

/-- Of the state, a draw writes the display and `VF`. -/
theorem written_drw_frame (s : State) (x y : Reg) (n : Rows) :
    written (.drw x y n) s =
      { s with
        disp := (written (.drw x y n) s).disp
        v := s.v.set 15 (written (.drw x y n) s).v[15] } := by
  simp [written, State.writeV, State.writeDisp, flagReg]

/-! ## The obligations -/

/-- Settles O35: `CLS` is `advance` on the blank display, which differs from the old one where a pixel was set. -/
theorem clsClearsEveryPixel : Obligations.ClsClearsEveryPixel := by
  refine ⟨encodes_of_encode_eq rfl, fun s => ⟨advance_atEnd .cls s _, fun hadv => ?_⟩⟩
  obtain ⟨b, hexec, hb⟩ := advance_ok_dispChanged .cls s (written .cls s) hadv
  refine ⟨_, hexec, pixel_blankDisplay, hb.trans ?_, rfl⟩
  simp [written, pixel_blankDisplay]

/-- Settles O36: past the memory check `DRW` is `advance` on its writes, which the laws of the blitter describe pixel by
pixel. -/
theorem drwXorsTheSprite : Obligations.DrwXorsTheSprite := by
  intro x y n
  have hword : encode (.drw x y n) = wordXYN 0xD x y n.val := fmtRegReg_eq_wordXYN 0xD x y n
  rw [← hword]
  refine ⟨encodes_of_encode_eq rfl, fun s => ⟨execDrw_of_not_fits x y, ?_, ?_⟩⟩
  · exact fun hfits hend => (execDrw_eq_advance x y hfits).trans (advance_atEnd _ s _ hend)
  intro hfits hadv
  obtain ⟨b, hexec, hb⟩ := advance_ok_dispChanged (.drw x y n) s (written (.drw x y n) s) hadv
  obtain ⟨c, hflag, hc⟩ := written_drw_flag s x y n
  refine ⟨_, (execDrw_eq_advance x y hfits).trans hexec, written_drw_pixel s x y n, ?_, ?_, ?_, ?_⟩
  · intro hcollides
    exact hflag.trans (by rw [hc.mpr hcollides]; rfl)
  · intro hfree
    have hc0 : c = false := Bool.eq_false_iff.mpr fun h => by
      obtain ⟨yy, xx, hset, hcovers⟩ := hc.mp h
      exact hfree yy xx hset hcovers
    exact hflag.trans (by rw [hc0]; rfl)
  · simp only [hb, written_drw_pixel, exists_spriteCovers_iff]
  · exact congrArg (fun t : State => { t with pc := s.pc + 2, dispChanged := b }) (written_drw_frame s x y n)

end Sys2Proof.Machine
end

section
/-! PROOFS. Timers and keys (45_timer_key_random.md). The timer instructions are `advance` on their writes. The key skips
are `skipIf` behind the check of the key code; `LD Vx, K` checks `pc + 2` before it parks, and the parked `Step` does the
rest. -/

namespace Sys2Proof.Machine

open Rules

/-! ## The key that a register selects (R153) -/

theorem keyOf_of_toNat_eq {b : Byte} {c : KeyCode} (h : b.toNat = c.val) : keyOf b = some c := by
  rw [keyOf_some b (h ▸ c.isLt)]
  exact congrArg some (Fin.ext h)

theorem execSkp_of_codeAbove15 {x : Reg} {s : State} (h : 0x0F < s.v[x].toNat) :
    exec (.skp x) s = .next (s.faulted .keyIndexOutOfRange (encode (.skp x))) := by
  rw [exec, execSkp, readV_eq, keyOf_none s.v[x] h, raise_eq]

theorem execSknp_of_codeAbove15 {x : Reg} {s : State} (h : 0x0F < s.v[x].toNat) :
    exec (.sknp x) s = .next (s.faulted .keyIndexOutOfRange (encode (.sknp x))) := by
  rw [exec, execSknp, readV_eq, keyOf_none s.v[x] h, raise_eq]

/-- Past the key check, the level `b` of the key picks the path. -/
theorem execSkp_of_keyLevel {x : Reg} {s : State} {c : KeyCode} {b : Bool} (hc : s.v[x].toNat = c.val)
    (hb : s.keys[c] = b) : exec (.skp x) s = skipIf b (.skp x) s := by
  subst hb
  rw [exec, execSkp, readV_eq, keyOf_of_toNat_eq hc]

/-- `SKNP` takes the other path of `SKP` (R154). -/
theorem execSknp_of_keyLevel {x : Reg} {s : State} {c : KeyCode} {b : Bool} (hc : s.v[x].toNat = c.val)
    (hb : s.keys[c] = b) : exec (.sknp x) s = skipIf (!b) (.sknp x) s := by
  subst hb
  rw [exec, execSknp, readV_eq, keyOf_of_toNat_eq hc]

/-! ## Parking (R155) -/

theorem checkPc_of_canAdvance {s : State} (h : s.CanAdvance) : checkPc (s.pc.toNat + 2) = .ok (s.pc + 2) := by
  obtain ⟨heven, hrange⟩ := h
  rw [checkPc_ok _ (by omega) hrange, ofNat_toNat_add s.pc 2]
  rfl

theorem execLdVxK_atEnd (x : Reg) {s : State} (h : AtTheEnd s) :
    exec (.ldVxK x) s = .next (s.faulted .pcOutOfRange (encode (.ldVxK x))) := by
  rw [exec, execLdVxK, checkPc_outOfRange _ h]
  rfl

/-- Parking empties the latch and changes no pixel; the checked `pc + 2` is not written. -/
theorem execLdVxK_of_canAdvance (x : Reg) {s : State} (h : s.CanAdvance) :
    exec (.ldVxK x) s = .next { s with mode := .waitingForKey x, keyLatch := none, dispChanged := false } := by
  rw [exec, execLdVxK, checkPc_of_canAdvance h]
  simp [retire_eq, State.park]

/-! ## The obligations -/

/-- Settles O39: each of the three only advances, and its writes are those of the statement. -/
theorem timerReadsAndWrites : Obligations.TimerReadsAndWrites := by
  intro x
  refine ⟨?_, ?_, ?_⟩
  · exact advances_of_exec_eq_advance (fmtRegImm_eq_wordXNN 0xF x 0x07) (fun _ => rfl) (fun _ => rfl) fun _ => rfl
  · exact advances_of_exec_eq_advance (fmtRegImm_eq_wordXNN 0xF x 0x15) (fun _ => rfl) (fun _ => rfl) fun _ => rfl
  · exact advances_of_exec_eq_advance (fmtRegImm_eq_wordXNN 0xF x 0x18) (fun _ => rfl) (fun _ => rfl) fun _ => rfl

/-- Settles O40: the key check comes first; past it both are `skipIf` of the key's level, and `pc` decides whether the
path taken faults. -/
theorem keySkips : Obligations.KeySkips := by
  intro x
  have hskp : encode (.skp x) = wordXNN 0xE x 0x9E := fmtRegImm_eq_wordXNN 0xE x 0x9E
  have hsknp : encode (.sknp x) = wordXNN 0xE x 0xA1 := fmtRegImm_eq_wordXNN 0xE x 0xA1
  rw [← hskp, ← hsknp]
  refine ⟨encodes_of_encode_eq rfl, encodes_of_encode_eq rfl, fun s => ⟨?_, fun c hc => ⟨?_, ?_, ?_, ?_⟩⟩⟩
  · exact fun habove => ⟨execSkp_of_codeAbove15 habove, execSknp_of_codeAbove15 habove⟩
  · exact fun hpc => ⟨fun hdown => (execSkp_of_keyLevel hc hdown).trans (skipIf_true _ s hpc),
      fun hup => (execSknp_of_keyLevel hc hup).trans (skipIf_true _ s hpc)⟩
  · exact fun hpc => ⟨fun hup => (execSkp_of_keyLevel hc hup).trans (skipIf_false _ s hpc),
      fun hdown => (execSknp_of_keyLevel hc hdown).trans (skipIf_false _ s hpc)⟩
  · exact fun hout => ⟨fun hdown => (execSkp_of_keyLevel hc hdown).trans (skipIf_true_outOfRange _ hout),
      fun hup => (execSknp_of_keyLevel hc hup).trans (skipIf_true_outOfRange _ hout)⟩
  · exact fun hend => ⟨fun hup => (execSkp_of_keyLevel hc hup).trans (skipIf_false_atEnd _ hend),
      fun hdown => (execSknp_of_keyLevel hc hdown).trans (skipIf_false_atEnd _ hend)⟩

/-- Settles O41: the check of `pc + 2` decides whether it parks, and the parked `Step` resolves the wait. -/
theorem keyWaitParksAndResolves : Obligations.KeyWaitParksAndResolves := by
  intro x
  have hword : encode (.ldVxK x) = wordXNN 0xF x 0x0A := fmtRegImm_eq_wordXNN 0xF x 0x0A
  rw [← hword]
  refine ⟨encodes_of_encode_eq rfl, fun s => ⟨execLdVxK_atEnd x, execLdVxK_of_canAdvance x, ?_⟩⟩
  exact fun c hfault hmode hlatch => (parkedStepResolvesTheWait s x hfault hmode).2 c hlatch

end Sys2Proof.Machine
end

section
/-! PROOFS. Timers, keys, tone, faults (60_exceptions.md). A timer tick and a key event are single writes of which the guard is
put into the words of the rules. Faults are precise because an instruction, known or unknown, either raises at the state it
started from or completes, and no instruction's writes touch the latch. -/

namespace Sys2Proof.Machine

/-! ## The countdown and the tone as numbers (R172, R178) -/

theorem countDown_eq (b : Byte) : countDown b = BitVec.ofNat 8 (b.toNat - 1) := by
  unfold countDown
  split <;> bv_omega

theorem countDown_ne_zero_iff (b : Byte) : countDown b ≠ 0 ↔ 1 < b.toNat := by
  unfold countDown
  split <;> bv_omega

theorem tone_iff (s : State) : tone s = true ↔ s.st ≠ 0 := by
  unfold tone
  rw [decide_eq_true_iff]
  bv_omega

/-! ## The guard of the key latch (R175, R176) -/

theorem Mode.ne_running_iff (m : Mode) : m ≠ .running ↔ ∃ x, m = .waitingForKey x := by
  cases m with
  | running => simp
  | waitingForKey x => simp

theorem State.latches_iff (s : State) (c : KeyCode) (pressed : Bool) :
    s.latches c pressed = true ↔ pressed = true ∧ s.keys[c] = false ∧ (∃ x, s.mode = .waitingForKey x) ∧
      s.fault = none ∧ s.keyLatch = none := by
  rw [← Mode.ne_running_iff]
  simp [State.latches, and_assoc]

theorem keySet_of_latches {s : State} {c : KeyCode} {pressed : Bool} (h : s.latches c pressed = true) :
    keySet c.val pressed s = .next ((s.writeKey c pressed).writeLatch (some c)) := by
  unfold keySet
  rw [dif_pos c.isLt, if_pos h]

theorem keySet_of_not_latches {s : State} {c : KeyCode} {pressed : Bool} (h : ¬ s.latches c pressed = true) :
    keySet c.val pressed s = .next (s.writeKey c pressed) := by
  unfold keySet
  rw [dif_pos c.isLt, if_neg h]

theorem keySet_of_codeAbove15 {code : Nat} (pressed : Bool) (s : State) (h : 15 < code) :
    keySet code pressed s = .refused .noSuchKey := by
  unfold keySet
  rw [dif_neg (by omega)]

/-! ## Taking a fault or completing (R161, R97) -/

/-- No instruction's writes touch the latch: only `raise` does. -/
@[simp] theorem written_fault (i : Instr) (s : State) : (written i s).fault = s.fault := by
  cases i with
  | call nnn =>
    simp only [written]
    split
    · rfl
    · rfl
  | rnd x nn => exact s.rndTaken_fault
  | _ => rfl

/-- Everything the handler of an unknown word can do. It completes only under `Lenient`, with `diag` as its one write. -/
theorem execUnknown_cases (op : Word) (s : State) :
    (∃ k, execUnknown op s = .next (s.faulted k op)) ∨
    (s.cfg.unknownPolicy = .lenient ∧ PcLegal (s.pc + 2) ∧
      execUnknown op s = retire s (s.emit (.diagUnknownOpcode s.pc op)) (s.pc + 2)) := by
  unfold execUnknown
  cases s.cfg.unknownPolicy with
  | strict => exact Or.inl ⟨.unknownOpcode, rfl⟩
  | lenient =>
    cases hpc : checkPc (s.pc.toNat + 2) with
    | error k => exact Or.inl ⟨k, rfl⟩
    | ok p =>
      obtain ⟨rfl, hlegal, -⟩ := checkPc_advance s p hpc
      exact Or.inr ⟨rfl, hlegal, rfl⟩

/-! ## The obligations -/

/-- Settles O47: an instruction that completes keeps the empty latch, since its writes do not touch it; one that does not has
raised at `s`. -/
theorem faultsArePrecise : Obligations.FaultsArePrecise := by
  intro s t hfault
  refine ⟨fun i hnext => ?_, fun op hnext => ?_⟩
  · rcases exec_cases i s with ⟨k, hraised⟩ | ⟨p, -, hdone⟩
    · exact Or.inr ⟨k, Host.Outcome.next.inj (hnext.symm.trans hraised)⟩
    · obtain rfl := Host.Outcome.next.inj (hdone.symm.trans hnext)
      exact Or.inl ((written_fault i s).trans hfault)
  · rcases execUnknown_cases op s with ⟨k, hraised⟩ | ⟨-, -, hdone⟩
    · exact Or.inr ⟨k, Host.Outcome.next.inj (hnext.symm.trans hraised)⟩
    · obtain rfl := Host.Outcome.next.inj (hdone.symm.trans hnext)
      exact Or.inl hfault

/-- Settles O43: the tick writes the two timers, and each countdown is subtraction that stops at 0. -/
theorem timerTickCountsDown : Obligations.TimerTickCountsDown := by
  intro s
  rw [← countDown_eq, ← countDown_eq]
  rfl

/-- Settles O45: the latch takes the code exactly under the rule's guard, which is that of `keySet`. -/
theorem keySetWritesKeyAndLatch : Obligations.KeySetWritesKeyAndLatch := by
  intro s pressed
  refine ⟨fun c => ?_, fun code => keySet_of_codeAbove15 pressed s⟩
  rw [← State.latches_iff]
  exact ⟨keySet_of_latches, keySet_of_not_latches⟩

/-- Settles O46: each event leaves a known `ST`, and the tone is on exactly where that is not 0. -/
theorem toneFollowsTheSoundTimer : Obligations.ToneFollowsTheSoundTimer := by
  intro s
  refine ⟨tone_iff s, fun x hpc => ?_, ⟨timerTick s, rfl, ?_⟩, fun _ => ⟨resetEvent s, rfl, rfl⟩⟩
  · exact ⟨_, advance_ok (.ldSTVx x) s (s.writeST s.v[x]) hpc, tone_iff _⟩
  · exact (tone_iff _).trans (countDown_ne_zero_iff s.st)

end Sys2Proof.Machine
end

section
/-! PROOFS. Reset and load (70_reset_and_hazards.md). After `Reset` memory lists no byte, so every address reads as
`Memory.unlisted`: its two branches are the font and the zeros. -/

namespace Sys2Proof.Machine

/-! ## What `Reset` leaves in memory (R191) -/

theorem Memory.unlisted_font (font : Font) (k : Fin 80) : Memory.unlisted font k.val = font[k] :=
  dif_pos k.isLt

theorem Memory.unlisted_aboveFont (font : Font) {a : Nat} (h : 80 ≤ a) : Memory.unlisted font a = 0 :=
  dif_neg (Nat.not_lt.mpr h)

theorem resetEvent_memRead (s : State) (a : Nat) : (resetEvent s).memRead a = Memory.unlisted s.cfg.font a :=
  State.reset_memRead s.cfg s.env a

/-! ## The obligations -/

/-- Settles O56: every byte after `Reset` is an unlisted one, the font's below 80 and 0 above. -/
theorem resetInstallsTheFont : Obligations.ResetInstallsTheFont := by
  intro seed s
  refine ⟨resetEvent s, rfl, fun k => ?_, fun a habove _ => ?_⟩
  · rw [Nat.zero_add, resetEvent_memRead, Memory.unlisted_font]
  · rw [resetEvent_memRead, Memory.unlisted_aboveFont s.cfg.font habove]

end Sys2Proof.Machine
end

section
/-! PROOFS. Decoding and encoding (30_encoding.md R70 to R77). Two lemmas carry the section. One says what the decoder
answers on a word: an instruction whose word it is, or the rejection under which the table of unknown encodings lists it.
The other says what a row of the opcode table selects: a word that matches it decodes to an instruction of that row. -/

namespace Sys2Proof.Rules

/-! ## What the decoder answers (R74, R75, R77) -/

/-- The table of unknown encodings (R77), on numbers: the words that are listed under a rejection. -/
def ListedUnknown (op : Word) : Reject → Prop
  | .tooShort => False
  | .unknownClass0 => op.toNat < 0x1000 ∧ op ≠ 0x00E0 ∧ op ≠ 0x00EE
  | .unknownClass5 => op.toNat / 0x1000 = 0x5 ∧ op.toNat % 0x10 ≠ 0
  | .unknownClass8 => op.toNat / 0x1000 = 0x8 ∧ op.toNat % 0x10 ∈ [0x8, 0x9, 0xA, 0xB, 0xC, 0xD, 0xF]
  | .unknownClass9 => op.toNat / 0x1000 = 0x9 ∧ op.toNat % 0x10 ≠ 0
  | .unknownClassE => op.toNat / 0x1000 = 0xE ∧ op.toNat % 0x100 ∉ [0x9E, 0xA1]
  | .unknownClassF => op.toNat / 0x1000 = 0xF ∧
      op.toNat % 0x100 ∉ [0x07, 0x0A, 0x15, 0x18, 0x1E, 0x29, 0x33, 0x55, 0x65]

/-- The answer `o` fits the word: it is an instruction that `op` is the word of, or a rejection that lists `op`. -/
def Answers (op : Word) : Except Reject Instr → Prop
  | .ok i => encode i = op
  | .error e => ListedUnknown op e

theorem class_eq_div (op : Word) : (cOf op).val = op.toNat / 0x1000 := by
  have := op.isLt
  rw [cOf_val]
  omega

/-- A word of class `c` whose selector `N` is `n` is the word of format `REG_REG` with these two. -/
theorem fmtRegReg_of_selector {op : Word} {n : Fin 16} (c : BitVec 4) (hc : (cOf op).val = c.toNat) (hn : nOf op = n) :
    fmtRegReg c (xOf op) (yOf op) n = op :=
  hn ▸ fmtRegReg_of_fields op c hc

/-- A word of class `c` whose selector `NN` is `nn` is the word of format `REG_SUB` with these two. -/
theorem fmtRegImm_of_selector {op : Word} {nn : Byte} (c : BitVec 4) (hc : (cOf op).val = c.toNat)
    (hnn : (nnOf op).toNat = nn.toNat) : fmtRegImm c (xOf op) nn = op :=
  BitVec.eq_of_toNat_eq hnn ▸ fmtRegImm_of_fields op c hc

theorem decodeClass8_answers {op : Word} (hc : (cOf op).val = 8) : Answers op (decodeClass8 op) := by
  unfold decodeClass8
  split
  case h_10 =>
    refine ⟨(class_eq_div op).symm.trans hc, ?_⟩
    rw [← nOf_val]
    simp only [List.mem_cons, List.not_mem_nil]
    grind
  all_goals exact fmtRegReg_of_selector 0x8 hc (Fin.ext ‹_›)

theorem decodeClassE_answers {op : Word} (hc : (cOf op).val = 14) : Answers op (decodeClassE op) := by
  unfold decodeClassE
  split
  case h_3 =>
    refine ⟨(class_eq_div op).symm.trans hc, ?_⟩
    rw [← nnOf_toNat]
    simp only [List.mem_cons, List.not_mem_nil]
    grind
  all_goals exact fmtRegImm_of_selector 0xE hc ‹_›

theorem decodeClassF_answers {op : Word} (hc : (cOf op).val = 15) : Answers op (decodeClassF op) := by
  unfold decodeClassF
  split
  case h_10 =>
    refine ⟨(class_eq_div op).symm.trans hc, ?_⟩
    rw [← nnOf_toNat]
    simp only [List.mem_cons, List.not_mem_nil]
    grind
  all_goals exact fmtRegImm_of_selector 0xF hc ‹_›

/-- Every answer of the decoder fits its word. -/
theorem decodeWord_answers (op : Word) : Answers op (decodeWord op) := by
  have hclass := class_eq_div op
  unfold decodeWord
  split
  case h_1 hc =>
    split
    · exact Eq.symm ‹_›
    · split
      · exact Eq.symm ‹_›
      · exact ⟨by omega, ‹_›, ‹_›⟩
  case h_6 hc =>
    split
    · exact fmtRegReg_of_selector 0x5 hc ‹_›
    · exact ⟨hclass.symm.trans hc, by rw [← nOf_val]; exact fun h => ‹¬ _› (Fin.ext h)⟩
  case h_10 hc =>
    split
    · exact fmtRegReg_of_selector 0x9 hc ‹_›
    · exact ⟨hclass.symm.trans hc, by rw [← nOf_val]; exact fun h => ‹¬ _› (Fin.ext h)⟩
  case h_9 hc => exact decodeClass8_answers hc
  case h_15 hc => exact decodeClassE_answers hc
  case h_16 => exact decodeClassF_answers (by grind)
  case h_2 hc | h_3 hc | h_11 hc | h_12 hc => exact fmtAddr_of_fields op _ hc
  case h_4 hc | h_5 hc | h_7 hc | h_8 hc | h_13 hc => exact fmtRegImm_of_fields op _ hc
  case h_14 hc => exact fmtRegReg_of_fields op _ hc

theorem encode_of_decodeWord_eq_ok {op : Word} {i : Instr} (h : decodeWord op = .ok i) : encode i = op := by
  have := decodeWord_answers op
  rwa [h] at this

theorem listedUnknown_of_decodeWord_eq_error {op : Word} {e : Reject} (h : decodeWord op = .error e) :
    ListedUnknown op e := by
  have := decodeWord_answers op
  rwa [h] at this

/-! ## What the table of unknown encodings lists is rejected -/

theorem decodeWord_of_class8 {op : Word} (hc : (cOf op).val = 0x8) : decodeWord op = decodeClass8 op := by
  simp [decodeWord, hc]

theorem decodeWord_of_classE {op : Word} (hc : (cOf op).val = 0xE) : decodeWord op = decodeClassE op := by
  simp [decodeWord, hc]

theorem decodeWord_of_classF {op : Word} (hc : (cOf op).val = 0xF) : decodeWord op = decodeClassF op := by
  simp [decodeWord, hc]

theorem decodeWord_of_listedUnknown {op : Word} {e : Reject} (h : ListedUnknown op e) : decodeWord op = .error e := by
  have hclass := class_eq_div op
  have hn := nOf_val op
  have hnn := nnOf_toNat op
  cases e with
  | tooShort => exact h.elim
  | unknownClass0 =>
    obtain ⟨hlt, hne, hne'⟩ := h
    have hc : (cOf op).val = 0x0 := by omega
    rw [decodeWord, hc]
    simp only [if_neg hne, if_neg hne']
  | unknownClass5 =>
    obtain ⟨hc, hsel⟩ := h
    rw [← hclass] at hc
    have hsel : nOf op ≠ 0 := fun h0 => hsel (hn ▸ congrArg Fin.val h0)
    simp [decodeWord, hc, hsel]
  | unknownClass9 =>
    obtain ⟨hc, hsel⟩ := h
    rw [← hclass] at hc
    have hsel : nOf op ≠ 0 := fun h0 => hsel (hn ▸ congrArg Fin.val h0)
    simp [decodeWord, hc, hsel]
  | unknownClass8 =>
    obtain ⟨hc, hsel⟩ := h
    rw [decodeWord_of_class8 (hclass.trans hc), decodeClass8]
    simp only [List.mem_cons, List.not_mem_nil] at hsel
    split <;> grind
  | unknownClassE =>
    obtain ⟨hc, hsel⟩ := h
    rw [decodeWord_of_classE (hclass.trans hc), decodeClassE]
    simp only [List.mem_cons, List.not_mem_nil] at hsel
    split <;> grind
  | unknownClassF =>
    obtain ⟨hc, hsel⟩ := h
    rw [decodeWord_of_classF (hclass.trans hc), decodeClassF]
    simp only [List.mem_cons, List.not_mem_nil] at hsel
    split <;> grind

theorem decodeWord_eq_error_iff (op : Word) (e : Reject) : decodeWord op = .error e ↔ ListedUnknown op e :=
  ⟨listedUnknown_of_decodeWord_eq_error, decodeWord_of_listedUnknown⟩

/-! ## What a row of the opcode table selects (R76) -/

/-- A mask that keeps the class keeps it. -/
theorem cOf_of_masked {op mask pat : Word} (h : op &&& mask = pat) (hmask : mask.extractLsb' 12 4 = 0xF) :
    cOf op = cOf pat := by
  subst h
  rw [cOf, cOf, BitVec.extractLsb'_and, hmask]
  exact congrArg nibbleOf (BitVec.and_allOnes ..).symm

theorem nOf_of_masked {op mask pat : Word} (h : op &&& mask = pat) (hmask : mask.extractLsb' 0 4 = 0xF) :
    nOf op = nOf pat := by
  subst h
  rw [nOf, nOf, BitVec.extractLsb'_and, hmask]
  exact congrArg nibbleOf (BitVec.and_allOnes ..).symm

theorem nnOf_of_masked {op mask pat : Word} (h : op &&& mask = pat) (hmask : mask.extractLsb' 0 8 = 0xFF) :
    nnOf op = nnOf pat := by
  subst h
  rw [nnOf, nnOf, BitVec.extractLsb'_and, hmask]
  exact (BitVec.and_allOnes ..).symm

/-- A word that matches the row of an instruction decodes to an instruction of this row: the mask keeps every field that
the decode algorithm tests. -/
theorem decodeWord_of_matches {op : Word} (i : Instr) (h : op &&& (rowOf i).mask = (rowOf i).pat) :
    (decodeWord op).map rowOf = .ok (rowOf i) := by
  cases i with
  | cls | ret =>
    obtain rfl : op = _ := (BitVec.and_allOnes ..).symm.trans h
    rfl
  | jp nnn | call nnn | ldI nnn | jpV0 nnn | seImm x nn | sneImm x nn | ldImm x nn | addImm x nn | rnd x nn
  | drw x y n =>
    rw [rowOf] at h
    have hc := cOf_of_masked (mask := 0xF000) h rfl
    rw [decodeWord, hc]
    rfl
  | seReg x y | sneReg x y =>
    rw [rowOf] at h
    have hc := cOf_of_masked (mask := 0xF00F) h rfl
    have hn := nOf_of_masked (mask := 0xF00F) h rfl
    rw [decodeWord, hc, hn]
    rfl
  | ldReg x y | orReg x y | andReg x y | xorReg x y | addReg x y | subReg x y | shr x y | subnReg x y | shl x y =>
    rw [rowOf] at h
    have hc := cOf_of_masked (mask := 0xF00F) h rfl
    have hn := nOf_of_masked (mask := 0xF00F) h rfl
    rw [decodeWord_of_class8 (hc ▸ rfl), decodeClass8, hn]
    rfl
  | skp x | sknp x =>
    rw [rowOf] at h
    have hc := cOf_of_masked (mask := 0xF0FF) h rfl
    have hnn := nnOf_of_masked (mask := 0xF0FF) h rfl
    rw [decodeWord_of_classE (hc ▸ rfl), decodeClassE, hnn]
    rfl
  | ldVxDT x | ldVxK x | ldDTVx x | ldSTVx x | addI x | ldF x | ldB x | storeRegs x | loadRegs x =>
    rw [rowOf] at h
    have hc := cOf_of_masked (mask := 0xF0FF) h rfl
    have hnn := nnOf_of_masked (mask := 0xF0FF) h rfl
    rw [decodeWord_of_classF (hc ▸ rfl), decodeClassF, hnn]
    rfl

theorem decodeWord_of_mem_opcodeTable {op : Word} {r : OpcodeRow} (hr : r ∈ opcodeTable) (h : op &&& r.mask = r.pat) :
    (decodeWord op).map rowOf = .ok r := by
  obtain ⟨i, -, rfl⟩ := List.mem_map.mp hr
  exact decodeWord_of_matches i h

theorem encode_matches_rowOf (i : Instr) : encode i &&& (rowOf i).mask = (rowOf i).pat := by
  cases i with
  | cls | ret => rfl
  | jp nnn | call nnn | ldI nnn | jpV0 nnn => exact Laws.fmtAddr_masked _ _
  | seImm x nn | sneImm x nn | ldImm x nn | addImm x nn | rnd x nn => exact Laws.fmtRegImm_masked_class _ _ _
  | drw x y n => exact Laws.fmtRegReg_masked_class _ _ _ _
  | seReg x y | sneReg x y | ldReg x y | orReg x y | andReg x y | xorReg x y | addReg x y | subReg x y | shr x y
  | subnReg x y | shl x y => exact Laws.fmtRegReg_masked_sub _ _ _ _
  | _ => exact Laws.fmtRegImm_masked_sub _ _ _

theorem rowOf_mem_opcodeTable (i : Instr) : rowOf i ∈ opcodeTable := by
  cases i <;> simp [opcodeTable, oneOfEachRow, rowOf]

/-! ## The obligations -/

/-- Settles O1: the bytes of an instruction are those of its word, and the decoder gives an instruction back from its word. -/
theorem decodeGivesBackEncodedInstruction : Obligations.DecodeGivesBackEncodedInstruction := by
  intro i rest _
  rw [encodeBytes, decodeBytes_bytesOfWord, decodeWord_encode]
  rfl

/-- Settles O2: an instruction that the decoder answers has the word that was decoded. -/
theorem encodeGivesBackDecodedWord : Obligations.EncodeGivesBackDecodedWord :=
  fun _ _ => encode_of_decodeWord_eq_ok

/-- Settles O3: an accepted word is the word of its instruction, and that matches its row; a rejected word matches no row,
since a word that matches one is accepted. -/
theorem decoderFollowsOpcodeTable : Obligations.DecoderFollowsOpcodeTable := by
  intro op
  constructor
  · intro i hi
    obtain rfl := encode_of_decodeWord_eq_ok hi
    exact ⟨rowOf_mem_opcodeTable i, encode_matches_rowOf i⟩
  · intro e he r hr hmatch
    have accepted := decodeWord_of_mem_opcodeTable hr hmatch
    rw [he] at accepted
    cases accepted

/-- Settles O4: the row that a word matches is the row of the instruction it decodes to, so there is only one. -/
theorem opcodeTableRowsAreDisjoint : Obligations.OpcodeTableRowsAreDisjoint := by
  refine ⟨rfl, fun op r hr r' hr' h h' => ?_⟩
  exact Except.ok.inj ((decodeWord_of_mem_opcodeTable hr h).symm.trans (decodeWord_of_mem_opcodeTable hr' h'))

/-- Settles O5: under each name the decoder rejects what the table lists under it, and the table lists nothing as too
short. -/
theorem unknownWordsAreThoseListed : Obligations.UnknownWordsAreThoseListed := by
  intro op
  have rejects := decodeWord_eq_error_iff op
  exact ⟨rejects _, rejects _, rejects _, rejects _, rejects _, rejects _, (rejects .tooShort).mp⟩

/-- Settles O6: each word is evaluated by the decode algorithm. -/
theorem sampleWordsDecode : Obligations.SampleWordsDecode :=
  ⟨rfl, rfl, rfl, rfl, rfl, rfl, rfl⟩

end Sys2Proof.Rules
end

section
/-! PROOFS. What the writes of an instruction leave unchanged (10_state.md R23 to R31, 20_memory.md R51). Each piece of
state is written only by the instructions named in its lemma; the writes that every instruction makes, of `pc` and of
`disp_changed`, are not among `written`. -/

namespace Sys2Proof.Machine

open Rules

variable {i : Instr} {s : State}

/-! ## The two instructions whose writes are given by cases -/

/-- A call writes the stack only, whether there is room or not. -/
theorem written_call_frame (nnn : Addr) (s : State) :
    written (.call nnn) s =
      { s with stack := (written (.call nnn) s).stack, sp := (written (.call nnn) s).sp } := by
  simp only [written]
  split
  · rfl
  · rfl

/-- `CXNN` writes its register and the world, whether the world has fixed the next byte or not. -/
theorem written_rnd_frame (x : Reg) (nn : Byte) (s : State) :
    written (.rnd x nn) s =
      { s with v := s.v.set x (s.rndByte &&& nn), env := s.rndTaken.env } := by
  simp only [written, State.writeV, State.rndTaken]
  split
  · rfl
  · rfl

/-! ## Which instructions write which piece of state -/

theorem getElem_writeV_of_ne (s : State) {x r : Reg} (b : Byte) (h : r ≠ x) : (s.writeV x b).v[r] = s.v[r] :=
  s.readV_writeV_other x r b h.symm

theorem getElem_writeVFlag_of_ne (s : State) {x r : Reg} (b f : Byte) (h : ¬ (r = x ∨ r = flagReg)) :
    (s.writeVFlag x b f).v[r] = s.v[r] := by
  obtain ⟨hx, hflag⟩ := not_or.mp h
  exact (getElem_writeV_of_ne _ f hflag).trans (getElem_writeV_of_ne s b hx)

/-- General registers: only those that the instruction names (R23). -/
theorem written_v {r : Reg} (h : ¬ MayWriteReg i r) : (written i s).v[r] = s.v[r] := by
  cases i with
  | ldImm x nn | addImm x nn | ldReg x y | orReg x y | andReg x y | xorReg x y | ldVxDT x =>
    exact getElem_writeV_of_ne s _ h
  | rnd x nn =>
    exact (getElem_writeV_of_ne s.rndTaken _ h).trans (by rw [s.rndTaken_v])
  | addReg x y | subReg x y | shr x y | subnReg x y | shl x y => exact getElem_writeVFlag_of_ne s _ _ h
  | drw x y n => exact getElem_writeV_of_ne (s.writeDisp _) _ h
  | loadRegs x => exact (written_loadRegs_v x r s).trans (if_neg h)
  | call nnn => rw [written_call_frame]
  | _ => rfl

theorem written_i_of_ne (h : (written i s).i ≠ s.i) :
    (∃ nnn, i = .ldI nnn) ∨ (∃ x, i = .addI x) ∨ (∃ x, i = .ldF x) := by
  cases i with
  | ldI nnn => exact .inl ⟨nnn, rfl⟩
  | addI x => exact .inr (.inl ⟨x, rfl⟩)
  | ldF x => exact .inr (.inr ⟨x, rfl⟩)
  | call nnn => exact absurd (by rw [written_call_frame]) h
  | rnd x nn => exact absurd (by rw [written_rnd_frame]) h
  | _ => exact absurd rfl h

theorem written_stack_of_ne (h : (written i s).stack ≠ s.stack) : ∃ nnn, i = .call nnn := by
  cases i with
  | call nnn => exact ⟨nnn, rfl⟩
  | rnd x nn => exact absurd (by rw [written_rnd_frame]) h
  | _ => exact absurd rfl h

theorem written_sp_of_ne (h : (written i s).sp ≠ s.sp) : i = .ret ∨ ∃ nnn, i = .call nnn := by
  cases i with
  | ret => exact .inl rfl
  | call nnn => exact .inr ⟨nnn, rfl⟩
  | rnd x nn => exact absurd (by rw [written_rnd_frame]) h
  | _ => exact absurd rfl h

theorem written_dt_of_ne (h : (written i s).dt ≠ s.dt) : ∃ x, i = .ldDTVx x := by
  cases i with
  | ldDTVx x => exact ⟨x, rfl⟩
  | call nnn => exact absurd (by rw [written_call_frame]) h
  | rnd x nn => exact absurd (by rw [written_rnd_frame]) h
  | _ => exact absurd rfl h

theorem written_st_of_ne (h : (written i s).st ≠ s.st) : ∃ x, i = .ldSTVx x := by
  cases i with
  | ldSTVx x => exact ⟨x, rfl⟩
  | call nnn => exact absurd (by rw [written_call_frame]) h
  | rnd x nn => exact absurd (by rw [written_rnd_frame]) h
  | _ => exact absurd rfl h

theorem written_mem_of_ne (h : (written i s).mem ≠ s.mem) : (∃ x, i = .ldB x) ∨ (∃ x, i = .storeRegs x) := by
  cases i with
  | ldB x => exact .inl ⟨x, rfl⟩
  | storeRegs x => exact .inr ⟨x, rfl⟩
  | call nnn => exact absurd (by rw [written_call_frame]) h
  | rnd x nn => exact absurd (by rw [written_rnd_frame]) h
  | _ => exact absurd rfl h

theorem written_disp_of_ne (h : (written i s).disp ≠ s.disp) : i = .cls ∨ ∃ x y n, i = .drw x y n := by
  cases i with
  | cls => exact .inl rfl
  | drw x y n => exact .inr ⟨x, y, n, rfl⟩
  | call nnn => exact absurd (by rw [written_call_frame]) h
  | rnd x nn => exact absurd (by rw [written_rnd_frame]) h
  | _ => exact absurd rfl h

theorem written_wait_of_ne (h : (written i s).mode ≠ s.mode ∨ (written i s).keyLatch ≠ s.keyLatch) :
    ∃ x, i = .ldVxK x := by
  cases i with
  | ldVxK x => exact ⟨x, rfl⟩
  | call nnn => rw [written_call_frame] at h; exact absurd h (by simp)
  | rnd x nn => rw [written_rnd_frame] at h; exact absurd h (by simp)
  | _ => exact absurd h (not_or.mpr ⟨not_not.mpr rfl, not_not.mpr rfl⟩)

theorem written_env_of_ne (h : (written i s).env ≠ s.env) : ∃ x nn, i = .rnd x nn := by
  cases i with
  | rnd x nn => exact ⟨x, nn, rfl⟩
  | call nnn => exact absurd (by rw [written_call_frame]) h
  | _ => exact absurd rfl h

/-- No instruction writes the keys, the record of a legal `Load` or the parameters. -/
theorem written_keys_loadable_cfg (i : Instr) (s : State) :
    (written i s).keys = s.keys ∧ (written i s).loadable = s.loadable ∧ (written i s).cfg = s.cfg := by
  cases i with
  | call nnn => rw [written_call_frame]; exact ⟨rfl, rfl, rfl⟩
  | rnd x nn => rw [written_rnd_frame]; exact ⟨rfl, rfl, rfl⟩
  | _ => exact ⟨rfl, rfl, rfl⟩

end Sys2Proof.Machine
end

section
/-! PROOFS. What holds of every instruction (10_state.md R21 to R31, 60_exceptions.md R160 to R164). An outcome of `exec` is
a fault at `s` or the writes of the instruction; which kinds a fault can have is read off the way each meaning ends. -/

namespace Sys2Proof.Machine

open Rules

/-! ## The kinds of fault an outcome can latch (R160, R164) -/

/-- A fault latched in the next state `o` is of a kind in `ks`. -/
def RaisesOnly (ks : List FaultKind) (o : Host.Outcome State Fault Refusal) : Prop :=
  ∀ t f, o = .next t → t.fault = some f → f.kind ∈ ks

theorem raise_raisesOnly {ks : List FaultKind} {k : FaultKind} (op : Word) (s : State) (hk : k ∈ ks) :
    RaisesOnly ks (raise k op s) := by
  intro t f hnext hfault
  obtain rfl := Host.Outcome.next.inj hnext
  obtain rfl := Option.some.inj hfault
  exact hk

/-- A next state without a fault raises nothing. -/
theorem raisesOnly_of_fault_eq_none (ks : List FaultKind) {t : State} (h : t.fault = none) : RaisesOnly ks (.next t) := by
  intro t' f hnext hfault
  obtain rfl := Host.Outcome.next.inj hnext
  exact absurd (h.symm.trans hfault) (Option.some_ne_none f).symm

/-- `complete` raises `PcMisaligned` only at an odd target. -/
theorem complete_raisesOnly {ks : List FaultKind} (i : Instr) (s : State) {t : State} {target : Nat}
    (ht : t.fault = none) (hrange : .pcOutOfRange ∈ ks) (halign : target % 2 = 1 → .pcMisaligned ∈ ks) :
    RaisesOnly ks (complete i s t target) := by
  rcases complete_inv i s t target with ⟨k, rfl | ⟨rfl, hodd⟩, h⟩ | ⟨p, -, h⟩
  · exact h ▸ raise_raisesOnly (encode i) s hrange
  · exact h ▸ raise_raisesOnly (encode i) s (halign hodd)
  · exact h ▸ raisesOnly_of_fault_eq_none ks ht

section EvenPc

variable {s : State} {ks : List FaultKind} (hpc : PcLegal s.pc) (hrange : .pcOutOfRange ∈ ks)
include hpc hrange

/-- From an even `pc` the next address is even. -/
theorem advance_raisesOnly (i : Instr) {t : State} (ht : t.fault = none) : RaisesOnly ks (advance i s t) :=
  complete_raisesOnly i s ht hrange fun hodd => absurd hpc.1 (by omega)

theorem skipIf_raisesOnly (cond : Bool) (i : Instr) (hs : s.fault = none) : RaisesOnly ks (skipIf cond i s) :=
  complete_raisesOnly i s hs hrange fun hodd => absurd hpc.1 (by cases cond <;> simp at hodd <;> omega)

/-- The check of `pc + 2`, made without completing, raises only `PcOutOfRange`. -/
theorem eq_pcOutOfRange_of_checkPc_advance {k : FaultKind} (h : checkPc (s.pc.toNat + 2) = .error k) : k ∈ ks := by
  have := hpc.1
  by_cases hr : 0xFFE < s.pc.toNat + 2
  · rw [checkPc_outOfRange _ hr] at h
    exact Except.error.inj h ▸ hrange
  · rw [checkPc_ok _ (by omega) (by omega)] at h
    cases h

end EvenPc

/-- The kinds of an instruction's faults are those listed for it: the kind of its own check, and those of `CheckPc`. -/
theorem exec_raisesOnly (i : Instr) {s : State} (hpc : PcLegal s.pc) (hs : s.fault = none) :
    RaisesOnly (faultKindsOf i) (exec i s) := by
  have writes_none : (written i s).fault = none := (written_fault i s).trans hs
  cases i with
  | ret =>
    simp only [exec, execRet]
    split
    · exact raisesOnly_of_fault_eq_none _ hs
    · exact raise_raisesOnly _ s (by simp [faultKindsOf])
  | jp nnn | jpV0 nnn =>
    exact complete_raisesOnly _ s hs (by simp [faultKindsOf]) fun _ => by simp [faultKindsOf]
  | call nnn =>
    simp only [exec, execCall]
    split
    · split
      next k hk => exact raise_raisesOnly _ s (eq_pcOutOfRange_of_checkPc_advance hpc (by simp [faultKindsOf]) hk)
      · exact complete_raisesOnly _ s hs (by simp [faultKindsOf]) fun _ => by simp [faultKindsOf]
    · exact raise_raisesOnly _ s (by simp [faultKindsOf])
  | skp x =>
    simp only [exec, execSkp]
    split
    · exact raise_raisesOnly _ s (by simp [faultKindsOf])
    · exact skipIf_raisesOnly hpc (by simp [faultKindsOf]) _ _ hs
  | sknp x =>
    simp only [exec, execSknp]
    split
    · exact raise_raisesOnly _ s (by simp [faultKindsOf])
    · exact skipIf_raisesOnly hpc (by simp [faultKindsOf]) _ _ hs
  | addI x =>
    simp only [exec, execAddI]
    split
    · exact raise_raisesOnly _ s (by simp [faultKindsOf])
    · exact advance_raisesOnly hpc (by simp [faultKindsOf]) _ writes_none
  | drw x y n | ldB x | storeRegs x | loadRegs x =>
    simp only [exec, execDrw, execLdB, execStoreRegs, execLoadRegs]
    split
    · exact advance_raisesOnly hpc (by simp [faultKindsOf]) _ writes_none
    · exact raise_raisesOnly _ s (by simp [faultKindsOf])
  | ldVxK x =>
    simp only [exec, execLdVxK]
    split
    next k hk => exact raise_raisesOnly _ s (eq_pcOutOfRange_of_checkPc_advance hpc (by simp [faultKindsOf]) hk)
    · exact raisesOnly_of_fault_eq_none _ hs
  | seImm x nn | sneImm x nn | seReg x y | sneReg x y =>
    exact skipIf_raisesOnly hpc (by simp [faultKindsOf]) _ _ hs
  | _ => exact advance_raisesOnly hpc (by simp [faultKindsOf]) _ writes_none

/-! ## `VF` after a flag-producing instruction (R21) -/

/-- The flag is written last, so it is what remains in `VF` whatever the destination is (R22). -/
theorem written_flag (i : Instr) (s : State) (h : FlagProducing i) : ∃ c, (written i s).v[15] = flagByte c := by
  cases i with
  | addReg x y | subReg x y | subnReg x y | shr x y | shl x y =>
    exact ⟨_, s.readV_writeVFlag_flag x _ _⟩
  | drw x y n =>
    obtain ⟨c, hflag, -⟩ := written_drw_flag s x y n
    exact ⟨c, hflag⟩
  | _ => exact h.elim

/-! ## The obligations -/

/-- Settles O28: the last write of a flag producer is a flag, and the other writes are to registers that the instruction
names. -/
theorem onlyFlagProducersTouchVF : Obligations.OnlyFlagProducersTouchVF := by
  intro i s t _ hnext
  rcases exec_cases i s with ⟨k, hraised⟩ | ⟨p, -, hdone⟩
  · obtain rfl := Host.Outcome.next.inj (hraised.symm.trans hnext)
    exact ⟨fun _ hfault => absurd hfault (Option.some_ne_none _), fun _ _ => rfl⟩
  · obtain rfl := Host.Outcome.next.inj (hdone.symm.trans hnext)
    refine ⟨fun hflag _ => ?_, fun _ hreg => written_v hreg⟩
    obtain ⟨c, hc⟩ := written_flag i s hflag
    exact (flagByte_isFlag c).imp hc.trans hc.trans

/-- Settles O48: `exec` raises or completes, and every case of a `Step` ends in a next state. -/
theorem everyInstructionAnswersNext : Obligations.EveryInstructionAnswersNext := by
  constructor
  · intro i s
    obtain ⟨t, ht, -⟩ := exec_recordsDisplayChange i s
    exact ⟨t, ht⟩
  · intro s
    obtain ⟨t, ht, -⟩ := coreStep_recordsDisplayChange s
    exact ⟨t, ht⟩

/-- Settles O49: every way an instruction can end raises only kinds listed for it. -/
theorem faultKindsAreThoseListed : Obligations.FaultKindsAreThoseListed :=
  fun i _ t f hpc hfault hnext => exec_raisesOnly i hpc hfault t f hnext

/-- Settles O51: a fault leaves everything but the latch, and the writes of an instruction that completes are to the state
named for it. -/
theorem instructionsWriteOnlyTheirState : Obligations.InstructionsWriteOnlyTheirState := by
  intro i s t hnext
  rcases exec_cases i s with ⟨k, hraised⟩ | ⟨p, -, hdone⟩
  · obtain rfl := Host.Outcome.next.inj (hraised.symm.trans hnext)
    simp
  · obtain rfl := Host.Outcome.next.inj (hdone.symm.trans hnext)
    exact ⟨fun _ => written_v, written_i_of_ne, written_stack_of_ne, written_sp_of_ne, written_dt_of_ne,
      written_st_of_ne, written_mem_of_ne, written_disp_of_ne, written_wait_of_ne, written_env_of_ne,
      written_keys_loadable_cfg i s⟩

end Sys2Proof.Machine
end

section
/-! PROOFS. Everything a `Step` can do, said once (40_step_dispatch.md R90 to R97): one constructor for each way it ends. What
every event keeps is derived from this and from `exec_cases`. -/

namespace Sys2Proof.Machine

/-- The states in which the `Step` of a running core at `s` can end. -/
inductive RunningStepTo (s : State) : State → Prop
  /-- A fault was taken, by the fetch, by a known instruction or by an unknown one. -/
  | faulted (k : FaultKind) (op : Word) : RunningStepTo s (s.faulted k op)
  /-- An instruction completed. -/
  | completed (i : Instr) (p : Word) (b : Bool) (h : Checked i s p) :
      RunningStepTo s { written i s with pc := p, dispChanged := b }
  /-- An unknown word was stepped over (R97). -/
  | steppedOver (op : Word) (b : Bool) (h : PcLegal (s.pc + 2)) :
      RunningStepTo s { s.emit (.diagUnknownOpcode s.pc op) with pc := s.pc + 2, dispChanged := b }

theorem runningStepTo_of_exec {i : Instr} {s t : State} (h : exec i s = .next t) : RunningStepTo s t := by
  rcases exec_cases i s with ⟨k, hraised⟩ | ⟨p, hck, hdone⟩
  · obtain rfl := Host.Outcome.next.inj (hraised.symm.trans h)
    exact .faulted k (encode i)
  · obtain rfl := Host.Outcome.next.inj (hdone.symm.trans h)
    exact .completed i p _ hck

theorem runningStepTo_of_execUnknown {op : Word} {s t : State} (h : execUnknown op s = .next t) :
    RunningStepTo s t := by
  rcases execUnknown_cases op s with ⟨k, hraised⟩ | ⟨-, hpc, hdone⟩
  · obtain rfl := Host.Outcome.next.inj (hraised.symm.trans h)
    exact .faulted k op
  · obtain rfl := Host.Outcome.next.inj (hdone.symm.trans h)
    exact .steppedOver op _ hpc

theorem runningStepTo_of_stepRunning {s t : State} (h : stepRunning s = .next t) : RunningStepTo s t := by
  unfold stepRunning at h
  split at h
  · obtain rfl := Host.Outcome.next.inj h
    exact .faulted _ 0
  · split at h
    · exact runningStepTo_of_exec h
    · exact runningStepTo_of_execUnknown h

theorem coreStep_of_runs {s : State} (h : s.Runs) : coreStep s = stepRunning s.closeLoad := by
  obtain ⟨hfault, hmode⟩ := h
  unfold coreStep
  rw [hfault, hmode]

/-- The states in which a `Step` at `s` can end. -/
inductive CoreStepTo (s : State) : State → Prop
  /-- A halted core, or one parked with an empty latch, does nothing (R91, R92). -/
  | idle : CoreStepTo s { s.closeLoad with dispChanged := false }
  /-- The wait of a parked core was resolved (R92). -/
  | resolved (x : Reg) (c : KeyCode) (hf : s.fault = none) (hm : s.mode = .waitingForKey x) :
      CoreStepTo s { (s.closeLoad.writeV x (keyByte c)).unpark with pc := s.pc + 2, dispChanged := false }
  /-- The core ran (R93). -/
  | ran (t : State) (hruns : s.Runs) (h : RunningStepTo s.closeLoad t) : CoreStepTo s t

theorem coreStepTo_of_coreStep {s t : State} (h : coreStep s = .next t) : CoreStepTo s t := by
  cases hf : s.fault with
  | some f =>
    obtain rfl := Host.Outcome.next.inj ((coreStep_of_fault hf).symm.trans h)
    exact .idle
  | none =>
    cases hm : s.mode with
    | running => exact .ran t ⟨hf, hm⟩ (runningStepTo_of_stepRunning ((coreStep_of_runs ⟨hf, hm⟩).symm.trans h))
    | waitingForKey x =>
      rw [coreStep_of_parked hf hm] at h
      cases hl : s.keyLatch with
      | none =>
        obtain rfl := Host.Outcome.next.inj ((stepParked_of_emptyLatch x (s := s.closeLoad) hl).symm.trans h)
        exact .idle
      | some c =>
        obtain rfl := Host.Outcome.next.inj ((stepParked_of_latched x (s := s.closeLoad) hl).symm.trans h)
        exact .resolved x c hf hm

/-- After a `Step` no `Load` is legal, however it ends (R194). -/
theorem coreStep_loadable {s t : State} (h : coreStep s = .next t) : t.loadable = false := by
  cases coreStepTo_of_coreStep h with
  | idle | resolved => rfl
  | ran t _ hran =>
    cases hran with
    | faulted | steppedOver => rfl
    | completed i p b _ => exact (written_keys_loadable_cfg i s.closeLoad).2.1

theorem State.setSchedule_eq_self {s : State} {es : List Event} (h : s.env.schedule = es) : s.setSchedule es = s := by
  subst h
  rfl

/-- A step is one event at the state with some schedule (R8, R9). -/
theorem step_eq_handle (s : State) : ∃ e es, step s = handle e (s.setSchedule es) := by
  cases hs : s.env.schedule with
  | nil => exact ⟨.step, [], by rw [step, hs, State.setSchedule_eq_self hs]; rfl⟩
  | cons e es => exact ⟨e, es, by rw [step, hs]⟩

end Sys2Proof.Machine
end

section
/-! PROOFS. The invariants (10_state.md R41). Each is shown of `Reset` and kept by every way an event can end; the ones that
an instruction can touch are looked at only for the instructions that write the state they speak of. -/

namespace Sys2Proof.Machine

open Rules

/-! ## What keeps the invariants by itself -/

theorem resetWith_inv (cfg : Config) (env : Env) : (State.resetWith cfg env).Inv where
  index := by simp [State.resetWith]
  pcLegal := by simp [State.resetWith, PcLegal]
  stackLegal k hk := absurd hk (Nat.not_lt_zero _)
  latchEmpty _ := rfl
  parkedCanAdvance h := absurd rfl h
  faultAtPc f hf := absurd hf.symm (Option.some_ne_none f)
  memWf := Memory.nil_wf _

section Invariants

variable {s : State}

/-- The world, the timers and the registers are not spoken of. -/
theorem State.Inv.setSchedule (h : s.Inv) (es : List Event) : (s.setSchedule es).Inv :=
  { h with }

theorem State.Inv.closeLoad (h : s.Inv) : s.closeLoad.Inv where
  __ := h
  faultAtPc f hf :=
    have ⟨hpc, hdisp, hmode, _⟩ := h.faultAtPc f hf
    ⟨hpc, hdisp, hmode, rfl⟩

theorem State.Inv.clearDispChanged (h : s.Inv) : { s with dispChanged := false }.Inv where
  __ := h
  faultAtPc f hf :=
    have ⟨hpc, _, hmode, hload⟩ := h.faultAtPc f hf
    ⟨hpc, rfl, hmode, hload⟩

theorem State.Inv.faulted (h : s.Inv) (hmode : s.mode = .running) (hload : s.loadable = false) (k : FaultKind)
    (op : Word) : (s.faulted k op).Inv where
  __ := h
  faultAtPc f hf := by
    obtain rfl := Option.some.inj hf
    exact ⟨rfl, rfl, hmode, hload⟩

/-- Without a fault, a legal `pc` may be written while the core runs. -/
theorem State.Inv.writePc (h : s.Inv) (hfault : s.fault = none) (hmode : s.mode = .running) {p : Word}
    (hp : PcLegal p) (b : Bool) : { s with pc := p, dispChanged := b }.Inv where
  __ := h
  pcLegal := hp
  parkedCanAdvance hparked := absurd hmode hparked
  faultAtPc f hf := absurd (hfault.symm.trans hf) (Option.some_ne_none f).symm

/-! ## An instruction that completes -/

section Completes

variable {i : Instr} {p : Word}

/-- The popped address was legal when it was pushed; every other new `pc` has passed its check. -/
theorem State.Inv.checked_pcLegal (h : s.Inv) (hck : Checked i s p) : PcLegal p := by
  cases i with
  | ret =>
    obtain ⟨hsp, rfl⟩ := hck
    exact h.stackLegal ⟨s.sp.val - 1, by omega⟩ (Nat.sub_lt hsp Nat.one_pos)
  | ldVxK x =>
    obtain ⟨-, -, rfl⟩ := hck
    exact h.pcLegal
  | call nnn =>
    obtain ⟨-, -, hp⟩ := hck
    exact hp
  | addI x | ldB x | storeRegs x => exact hck.2
  | _ => exact hck

theorem glyphAddr_toNat_le (b : Byte) : (glyphAddr b).toNat ≤ 0xFFF := by
  rw [glyphAddr, BitVec.toNat_ofNat]
  exact (Nat.mod_le _ _).trans (by omega)

theorem State.Inv.written_index (h : s.Inv) (hck : Checked i s p) : (written i s).i.toNat ≤ 0xFFF := by
  by_cases hi : (written i s).i = s.i
  · rw [hi]
    exact h.index
  rcases written_i_of_ne hi with ⟨nnn, rfl⟩ | ⟨x, rfl⟩ | ⟨x, rfl⟩
  · have := nnn.isLt
    exact (wideAddr_toNat nnn).trans_le (by omega)
  · obtain ⟨hsum, -⟩ := hck
    exact (BitVec.toNat_ofNat _ _).trans_le ((Nat.mod_le _ _).trans hsum)
  · exact glyphAddr_toNat_le _

/-- The pushed address is `pc + 2`, which the call has checked. -/
theorem State.Inv.push_stackLegal (h : s.Inv) (hsp : s.sp.val < 16) {ret : Word} (hret : PcLegal ret) (k : Fin 16)
    (hk : k.val < s.sp.val + 1) : PcLegal (s.push hsp ret).stack[k] := by
  by_cases htop : s.sp.val = k.val
  · simpa [htop] using hret
  · simpa [htop] using h.stackLegal k (by omega)

theorem State.Inv.written_stackLegal (h : s.Inv) (hck : Checked i s p) (k : Fin 16)
    (hk : k.val < (written i s).sp.val) : PcLegal (written i s).stack[k] := by
  by_cases hcall : ∃ nnn, i = .call nnn
  · obtain ⟨nnn, rfl⟩ := hcall
    obtain ⟨hsp, hret, -⟩ := hck
    simp only [written, dif_pos hsp] at hk ⊢
    exact h.push_stackLegal hsp hret k hk
  · have hstack : (written i s).stack = s.stack := by_contra fun hne => hcall (written_stack_of_ne hne)
    have hle : (written i s).sp ≤ s.sp := by
      by_contra hlt
      rcases written_sp_of_ne fun heq => hlt heq.le with rfl | hc
      · exact hlt (Nat.sub_le s.sp.val 1)
      · exact hcall hc
    rw [hstack]
    exact h.stackLegal k (Nat.lt_of_lt_of_le hk hle)

/-- A block that passed the memory check lies inside memory. -/
theorem State.Inv.memWriteList_memWf (h : s.Inv) {bs : List Byte} {n : Nat} (hlen : bs.length = n + 1)
    (htop : s.addr n ≤ 0xFFF) : Memory.wf s.cfg.font (s.memWriteList (s.addr 0) bs).mem = true := by
  unfold State.addr at htop ⊢
  exact Memory.writeList_wf _ _ _ bs (by rw [hlen, memSize]; omega) h.memWf

theorem State.Inv.written_memWf (h : s.Inv) (hck : Checked i s p) :
    Memory.wf (written i s).cfg.font (written i s).mem = true := by
  obtain ⟨-, -, hcfg⟩ := written_keys_loadable_cfg i s
  rw [hcfg]
  by_cases hm : (written i s).mem = s.mem
  · rw [hm]
    exact h.memWf
  rcases written_mem_of_ne hm with ⟨x, rfl⟩ | ⟨x, rfl⟩
  · exact h.memWriteList_memWf (bcdDigits_length _) hck.1
  · exact h.memWriteList_memWf (vUpTo_length s x) hck.1

/-- Only `FX0A` leaves the running mode, with an empty latch, and it has checked `pc + 2`. -/
theorem State.Inv.written_wait (h : s.Inv) (hmode : s.mode = .running) (hck : Checked i s p) :
    (written i s).keyLatch = none ∧ ((written i s).mode ≠ .running → p.toNat + 2 ≤ 0xFFE) := by
  by_cases hpark : ∃ x, i = .ldVxK x
  · obtain ⟨x, rfl⟩ := hpark
    obtain ⟨-, hadv, rfl⟩ := hck
    exact ⟨rfl, fun _ => hadv⟩
  · obtain ⟨hsameMode, hsameLatch⟩ := not_or.mp (mt (written_wait_of_ne (s := s)) hpark)
    rw [not_not.mp hsameMode, not_not.mp hsameLatch]
    exact ⟨h.latchEmpty hmode, fun hparked => absurd hmode hparked⟩

theorem State.Inv.completed (h : s.Inv) (hruns : s.Runs) (hck : Checked i s p) (b : Bool) :
    { written i s with pc := p, dispChanged := b }.Inv where
  index := h.written_index hck
  pcLegal := h.checked_pcLegal hck
  stackLegal := h.written_stackLegal hck
  latchEmpty _ := (h.written_wait hruns.2 hck).1
  parkedCanAdvance := (h.written_wait hruns.2 hck).2
  faultAtPc f hf := absurd ((written_fault i s).trans hruns.1 ▸ hf) (Option.some_ne_none f).symm
  memWf := h.written_memWf hck

end Completes

/-! ## The events -/

theorem State.Inv.runningStepTo (h : s.Inv) (hruns : s.Runs) (hload : s.loadable = false) {t : State}
    (ht : RunningStepTo s t) : t.Inv := by
  cases ht with
  | faulted k op => exact h.faulted hruns.2 hload k op
  | completed i p b hck => exact h.completed hruns hck b
  | steppedOver op b hpc =>
    have hemit : (s.emit (.diagUnknownOpcode s.pc op)).Inv := { h with }
    exact hemit.writePc hruns.1 hruns.2 hpc b

/-- The resolved wait moves to `pc + 2`, which the invariant of parked states calls legal. -/
theorem State.Inv.resolved (h : s.Inv) (hfault : s.fault = none) {x : Reg} (hmode : s.mode = .waitingForKey x)
    (b : Byte) : { (s.writeV x b).unpark with pc := s.pc + 2, dispChanged := false }.Inv := by
  have hunpark : (s.writeV x b).unpark.Inv :=
    { h with
      latchEmpty := fun _ => rfl
      parkedCanAdvance := fun hparked => absurd rfl hparked
      faultAtPc := fun f hf => absurd (hfault.symm.trans hf) (Option.some_ne_none f).symm }
  have hparked : s.mode ≠ .running := by simp [hmode]
  have heven := h.pcLegal.1
  have hrange := h.parkedCanAdvance hparked
  have hpc : PcLegal (s.pc + 2) := (checkPc_legal _ _ (checkPc_of_canAdvance ⟨heven, hrange⟩)).1
  exact hunpark.writePc hfault rfl hpc false

theorem State.Inv.coreStep (h : s.Inv) {t : State} (ht : coreStep s = .next t) : t.Inv := by
  cases coreStepTo_of_coreStep ht with
  | idle => exact h.closeLoad.clearDispChanged
  | resolved x c hfault hmode => exact h.closeLoad.resolved hfault hmode (keyByte c)
  | ran t hruns hran => exact h.closeLoad.runningStepTo hruns rfl hran

theorem State.Inv.timerTick (h : s.Inv) : (timerTick s).Inv :=
  { h with }

/-- The latch takes a code only while the core is parked (R176). -/
theorem State.Inv.keySet (h : s.Inv) {code : Nat} {pressed : Bool} {t : State} (ht : keySet code pressed s = .next t) :
    t.Inv := by
  unfold Machine.keySet at ht
  split at ht
  · split at ht
    next hlatches =>
      obtain ⟨-, -, hparked, -⟩ := (State.latches_iff s _ pressed).mp hlatches
      obtain rfl := Host.Outcome.next.inj ht
      exact { h with latchEmpty := fun hmode => absurd hmode ((Mode.ne_running_iff s.mode).mpr hparked) }
    · obtain rfl := Host.Outcome.next.inj ht
      exact { h with }
  · cases ht

theorem State.Inv.reportTruncation (h : s.Inv) (image : List Byte) : (s.reportTruncation image).Inv := by
  unfold State.reportTruncation
  split
  · exact { h with }
  · exact h

/-- What is copied ends inside memory, since `LOAD_MAX` is at most the 3584 bytes from `0x200` (R193). -/
theorem State.Inv.loadEvent (h : s.Inv) {image : List Byte} {t : State} (ht : loadEvent image s = .next t) : t.Inv := by
  unfold Machine.loadEvent at ht
  split at ht
  · obtain rfl := Host.Outcome.next.inj ht
    have hlen : 0x200 + (image.take s.cfg.loadMax.val).length ≤ memSize := by
      have := s.cfg.loadMax.isLt
      rw [List.length_take, memSize]
      omega
    have hcopy : (s.memWriteList 0x200 (image.take s.cfg.loadMax.val)).Inv :=
      { h with memWf := Memory.writeList_wf _ _ _ _ hlen h.memWf }
    exact (hcopy.reportTruncation image).closeLoad
  · cases ht

theorem State.Inv.handle (h : s.Inv) {e : Event} {t : State} (ht : handle e s = .next t) : t.Inv := by
  cases e with
  | step => exact h.coreStep ht
  | timerTick =>
    obtain rfl := Host.Outcome.next.inj ht
    exact h.timerTick
  | keySet code pressed => exact h.keySet ht
  | reset seed =>
    obtain rfl := Host.Outcome.next.inj ht
    exact resetWith_inv s.cfg s.env
  | load image => exact h.loadEvent ht

/-! ## A halted core (R163) -/

theorem State.closeLoad_clearDispChanged_eq_self (hdisp : s.dispChanged = false) (hload : s.loadable = false) :
    { s.closeLoad with dispChanged := false } = s := by
  cases s
  cases hdisp
  cases hload
  rfl

/-- A halted core's `Step` writes nothing, since both bits it clears are already 0. -/
theorem State.Inv.coreStep_of_halted (h : s.Inv) {f : FaultRecord} (hf : s.fault = some f) :
    Machine.coreStep s = .next s := by
  obtain ⟨-, hdisp, -, hload⟩ := h.faultAtPc f hf
  exact (coreStep_of_fault hf).trans (congrArg _ (State.closeLoad_clearDispChanged_eq_self hdisp hload))

/-- A halted core latches no key (R175). -/
theorem not_latches_of_halted {f : FaultRecord} (hf : s.fault = some f) (c : KeyCode) (pressed : Bool) :
    ¬ s.latches c pressed = true := by
  simp [State.latches, hf]

theorem loadEvent_of_not_loadable (image : List Byte) (h : s.loadable = false) :
    loadEvent image s = .refused .loadNotLegal := by
  simp [loadEvent, h]

/-- What an event other than `Reset` leaves of a halted core. -/
theorem State.Inv.handle_of_halted (h : s.Inv) {f : FaultRecord} (hf : s.fault = some f) {e : Event}
    (he : ∀ seed, e ≠ .reset seed) {t : State} (ht : Machine.handle e s = .next t) :
    t = { s with dt := t.dt, st := t.st, keys := t.keys } := by
  cases e with
  | step =>
    obtain rfl := Host.Outcome.next.inj ((h.coreStep_of_halted hf).symm.trans ht)
    rfl
  | timerTick =>
    obtain rfl := Host.Outcome.next.inj ht
    rfl
  | keySet code pressed =>
    by_cases hcode : 15 < code
    · exact nomatch (keySet_of_codeAbove15 pressed s hcode).symm.trans ht
    · have hkey := keySet_of_not_latches (not_latches_of_halted hf ⟨code, by omega⟩ pressed)
      obtain rfl := Host.Outcome.next.inj (hkey.symm.trans ht)
      rfl
  | reset seed => exact absurd rfl (he seed)
  | load image =>
    obtain ⟨-, -, -, hload⟩ := h.faultAtPc f hf
    exact nomatch (loadEvent_of_not_loadable image hload).symm.trans ht

end Invariants

/-! ## The obligations -/

/-- Settles O53: a step is one event at a state that differs in its schedule, and every event keeps the invariants. -/
theorem everyStepKeepsTheInvariants : Obligations.EveryStepKeepsTheInvariants := by
  intro s t hinv hstep
  obtain ⟨e, es, heq⟩ := step_eq_handle s
  exact (hinv.setSchedule es).handle (heq.symm.trans hstep)

/-- Settles O52: `Reset` leaves them for any parameters and any world. -/
theorem resetMeetsTheInvariants : Obligations.ResetMeetsTheInvariants :=
  resetWith_inv Config.default Env.quiet

/-- Settles O50: by the invariants of a halted core no `Load` is legal and its `Step` has nothing left to clear; ticks and
key events write what they name. -/
theorem haltedUntilReset : Obligations.HaltedUntilReset := by
  intro e s hinv hhalted
  obtain ⟨f, hf⟩ := Option.ne_none_iff_exists'.mp hhalted
  obtain ⟨-, -, -, hload⟩ := hinv.faultAtPc f hf
  refine ⟨fun image => loadEvent_of_not_loadable image hload, fun seed t hreset => ?_, fun t he ht => ?_⟩
  · obtain rfl := Host.Outcome.next.inj hreset
    rfl
  · exact hinv.handle_of_halted hf he ht

end Sys2Proof.Machine
end

section
/-! PROOFS. The running `Step` (40_step_dispatch.md R93 to R97). The check of `pc`, then the decoder's answer on the word at
`pc`, decide between a fault, an instruction and the handler of unknown words; each statement picks one of these. -/

namespace Sys2Proof.Machine

open Rules

section RunningStep

variable {s : State}

/-! ## Which case a running `Step` takes -/

theorem stepRunning_of_illegalPc {k : FaultKind} (h : checkPc s.pc.toNat = .error k) :
    stepRunning s = .next (s.faulted k 0) := by
  unfold stepRunning
  rw [h]
  rfl

theorem decodeBytes_pair (hi lo : Byte) :
    decodeBytes [hi, lo] = (decodeWord (wordOfBytes hi lo)).map fun i => (i, []) := by
  simp only [decodeBytes]
  cases decodeWord (wordOfBytes hi lo) <;> rfl

/-- The two bytes fetched are those of the word at `pc`. -/
theorem decodeBytes_fetched (s : State) :
    decodeBytes (s.memReadList s.pc.toNat 2) = (decodeWord (s.memReadWord s.pc.toNat)).map fun i => (i, []) :=
  decodeBytes_pair _ _

theorem stepRunning_of_decoded {i : Instr} (hpc : PcLegal s.pc)
    (hword : decodeWord (s.memReadWord s.pc.toNat) = .ok i) : stepRunning s = exec i s := by
  unfold stepRunning
  rw [checkPc_self _ hpc, decodeBytes_fetched, hword]
  rfl

theorem stepRunning_of_unknown {e : Reject} (hpc : PcLegal s.pc)
    (hword : decodeWord (s.memReadWord s.pc.toNat) = .error e) :
    stepRunning s = execUnknown (s.memReadWord s.pc.toNat) s := by
  unfold stepRunning
  rw [checkPc_self _ hpc, decodeBytes_fetched, hword]
  rfl

/-- Closing the `Load` changes nothing that the fetch reads. -/
theorem coreStep_of_decoded {i : Instr} (h : s.Runs) (hpc : PcLegal s.pc)
    (hword : decodeWord (s.memReadWord s.pc.toNat) = .ok i) : coreStep s = exec i s.closeLoad :=
  (coreStep_of_runs h).trans (stepRunning_of_decoded (s := s.closeLoad) hpc hword)

theorem coreStep_of_unknown {e : Reject} (h : s.Runs) (hpc : PcLegal s.pc)
    (hword : decodeWord (s.memReadWord s.pc.toNat) = .error e) :
    coreStep s = execUnknown (s.memReadWord s.pc.toNat) s.closeLoad :=
  (coreStep_of_runs h).trans (stepRunning_of_unknown (s := s.closeLoad) hpc hword)

theorem decodeWord_of_decodeBytes_pair {hi lo : Byte} {i : Instr} {rest : List Byte}
    (h : decodeBytes [hi, lo] = .ok (i, rest)) : decodeWord (wordOfBytes hi lo) = .ok i := by
  rw [decodeBytes_pair] at h
  cases hword : decodeWord (wordOfBytes hi lo) with
  | error e =>
    rw [hword] at h
    cases h
  | ok j =>
    rw [hword] at h
    cases h
    rfl

/-! ## The handler of unknown words (R97) -/

theorem execUnknown_strict (op : Word) (h : s.cfg.unknownPolicy = .strict) :
    execUnknown op s = .next (s.faulted .unknownOpcode op) := by
  rw [execUnknown, h, raise_eq]

theorem execUnknown_lenient_canAdvance (op : Word) (h : s.cfg.unknownPolicy = .lenient) (hpc : s.CanAdvance) :
    execUnknown op s =
      .next { s.emit (.diagUnknownOpcode s.pc op) with pc := s.pc + 2, dispChanged := false } := by
  rw [execUnknown, h, checkPc_of_canAdvance hpc]
  simp [retire_eq]

theorem execUnknown_lenient_atEnd (op : Word) (h : s.cfg.unknownPolicy = .lenient) (hend : AtTheEnd s) :
    execUnknown op s = .next (s.faulted .pcOutOfRange op) := by
  rw [execUnknown, h, checkPc_outOfRange _ hend]
  rfl

/-! ## A jump to its own address (R197) -/

/-- The word `1NNN` with `NNN = p` decodes to the jump to `p`. -/
theorem decodeWord_of_jumpWord {op p : Word} (hp : p.toNat ≤ 0xFFE) (h : op.toNat = 0x1000 + p.toNat) :
    decodeWord op = .ok (.jp (p.setWidth 12)) := by
  have hword : encode (.jp (p.setWidth 12)) = op := by
    apply BitVec.eq_of_toNat_eq
    rw [encode, fmtAddr_toNat, BitVec.toNat_setWidth, h]
    have hclass : (0x1 : BitVec 4).toNat = 1 := rfl
    omega
  rw [← hword, decodeWord_encode]

theorem execJp_self (h : PcLegal s.pc) :
    exec (.jp (s.pc.setWidth 12)) s = .next { s with dispChanged := false } := by
  obtain ⟨heven, hrange⟩ := h
  have htarget : (s.pc.setWidth 12).toNat = s.pc.toNat := by
    rw [BitVec.toNat_setWidth]
    omega
  have hexec := complete_ok_sameDisplay (.jp (s.pc.setWidth 12)) (s := s) (t := s) heven hrange rfl
  rw [exec, execJp, htarget, hexec]
  simp

end RunningStep

/-! ## The obligations -/

/-- Settles O7: both are the two cases of `step`. -/
theorem stepPerformsTheNextEvent : Obligations.StepPerformsTheNextEvent := by
  intro s
  constructor
  · intro hs
    rw [step, hs]
    rfl
  · intro e es hs
    rw [step, hs]
    rfl

/-- Settles O8: the bytes given are those of the fetched word, and a scheduled `Step` is the core's `Step` behind it. -/
theorem stepRunsTheDecodedInstruction : Obligations.StepRunsTheDecodedInstruction := by
  intro s i rest hruns hpc hbytes
  have hword := decodeWord_of_decodeBytes_pair hbytes
  obtain ⟨hidle, hscheduled⟩ := stepPerformsTheNextEvent s
  constructor
  · exact fun hs => (hidle hs).trans (coreStep_of_decoded hruns hpc hword)
  · exact fun es hs => (hscheduled .step es hs).trans (coreStep_of_decoded (s := s.setSchedule es) hruns hpc hword)

/-- Settles O9: the `Step` is the handler of unknown words, and the policy and `pc` decide between its outcomes. -/
theorem unknownEncodingFollowsThePolicy : Obligations.UnknownEncodingFollowsThePolicy := by
  intro s e hruns hpc hword
  have hstep : handle .step s = _ := coreStep_of_unknown hruns hpc hword
  obtain ⟨t, ht, -⟩ := execUnknown_recordsDisplayChange (s.memReadWord s.pc.toNat) s.closeLoad
  refine ⟨t, hstep.trans ht, fun hstrict => ?_, fun hlenient hadv => ?_, fun hlenient hend => ?_⟩
  · obtain rfl := Host.Outcome.next.inj ((execUnknown_strict (s := s.closeLoad) _ hstrict).symm.trans ht)
    rfl
  · obtain rfl :=
      Host.Outcome.next.inj ((execUnknown_lenient_canAdvance (s := s.closeLoad) _ hlenient hadv).symm.trans ht)
    rfl
  · obtain rfl :=
      Host.Outcome.next.inj ((execUnknown_lenient_atEnd (s := s.closeLoad) _ hlenient hend).symm.trans ht)
    rfl

/-- Settles O12: the check of `pc` comes before the fetch, and its fault is taken with the word 0. -/
theorem fetchFromIllegalPcFaults : Obligations.FetchFromIllegalPcFaults := by
  intro s hruns
  have hstep : handle .step s = stepRunning s.closeLoad := coreStep_of_runs hruns
  rw [hstep]
  constructor
  · exact fun habove => stepRunning_of_illegalPc (checkPc_outOfRange _ habove)
  · exact fun hrange hodd => stepRunning_of_illegalPc (checkPc_misaligned _ hodd hrange)

/-- Settles O13: the three clauses are the three branches of `CheckPc`. -/
theorem checkPcTestsRangeThenAlignment : Obligations.CheckPcTestsRangeThenAlignment := by
  intro t
  refine ⟨checkPc_outOfRange t, fun hrange hodd => checkPc_misaligned t hodd hrange, fun hrange heven => ?_⟩
  have hok := checkPc_ok t heven hrange
  exact ⟨_, hok, (checkPc_legal t _ hok).2⟩

/-- Settles O14: the first two stored bytes stand at the new `pc`, so the next fetch is of their word. -/
theorem nextFetchSeesTheStore : Obligations.NextFetchSeesTheStore := by
  intro s x i hruns hadv hi hx hfits hword
  obtain ⟨-, hstore⟩ := storeWritesRegisterBlock x
  obtain ⟨-, -, hcompletes⟩ := hstore s
  obtain ⟨t, hexec, hblock, -, hframe⟩ := hcompletes hfits hadv
  have htpc : t.pc = s.pc + 2 := by rw [hframe]
  have htruns : t.Runs := by rw [hframe]; exact hruns
  obtain ⟨-, hlegal, -⟩ := checkPc_advance s _ (checkPc_of_canAdvance hadv)
  have hbyte0 : t.memRead t.pc.toNat = s.v[0] := by
    rw [htpc, ← hi]
    exact hblock 0 (Fin.zero_le x)
  have hbyte1 : t.memRead (t.pc.toNat + 1) = s.v[1] := by
    rw [htpc, ← hi]
    exact hblock 1 hx
  have hfetched : t.memReadWord t.pc.toNat = wordOfBytes s.v[0] s.v[1] := by
    rw [State.memReadWord, hbyte0, hbyte1]
  exact ⟨t, hexec, hfetched, coreStep_of_decoded htruns (htpc ▸ hlegal) (hfetched ▸ hword)⟩

/-- Settles O15: the word at `pc` is the jump to `pc`, which writes nothing but `disp_changed`. -/
theorem settledCoreStaysSettled : Obligations.SettledCoreStaysSettled := by
  rintro s ⟨hruns, hpc, hword⟩
  have hstep := coreStep_of_decoded hruns hpc (decodeWord_of_jumpWord hpc.2 hword)
  exact hstep.trans (execJp_self (s := s.closeLoad) hpc)

end Sys2Proof.Machine
end

section
/-! PROOFS. Laws of pairs and runs (41_control_flow.md R108, 43_index_memory.md R136, 44_display.md R143, 60_exceptions.md
R173). Each follows from the statements about its single instructions or ticks. -/

namespace Sys2Proof.Machine

open Rules

/-! ## Two draws of one sprite (R143) -/

/-- What a sprite covers depends on the coordinates and the sprite's bytes alone. -/
theorem spriteCovers_congr {s u : State} {x y : Reg} {n : Rows} (hi : u.i = s.i) (hx : u.v[x] = s.v[x])
    (hy : u.v[y] = s.v[y]) (hbytes : ∀ r < n.val, u.memRead (s.addr r) = s.memRead (s.addr r)) (yy : Fin 32)
    (xx : Fin 64) : SpriteCovers u x y n yy xx ↔ SpriteCovers s x y n yy xx := by
  have haddr (r : Nat) : u.addr r = s.addr r := by rw [State.addr, hi, State.addr]
  unfold SpriteCovers
  refine exists_congr fun r => and_congr_right fun hr => ?_
  rw [haddr, hbytes r hr, hx, hy]

/-- Flipping the same pixels twice gives the display back. -/
theorem pixel_eq_of_flipped_twice {d d' d'' : Display} {covers : Fin 32 → Fin 64 → Prop}
    (h : ∀ y x, pixel d' y x ≠ pixel d y x ↔ covers y x) (h' : ∀ y x, pixel d'' y x ≠ pixel d' y x ↔ covers y x) :
    d'' = d := by
  apply display_ext
  intro y x
  by_cases hc : covers y x
  · rw [Bool.eq_not.mpr ((h' y x).mpr hc), Bool.eq_not.mpr ((h y x).mpr hc), Bool.not_not]
  · rw [not_not.mp (mt (h' y x).mp hc), not_not.mp (mt (h y x).mp hc)]

/-! ## One tick as subtraction (R172) -/

theorem countDown_toNat (b : Byte) : (countDown b).toNat = b.toNat - 1 := by
  rw [countDown_eq]
  bv_omega

theorem timerTick_dt_toNat (s : State) : (timerTick s).dt.toNat = s.dt.toNat - 1 :=
  countDown_toNat s.dt

theorem timerTick_st_toNat (s : State) : (timerTick s).st.toNat = s.st.toNat - 1 :=
  countDown_toNat s.st

/-! ## The obligations -/

/-- Settles O22: the call leaves depth `k + 1`, and the return pops the entry `k`, where the call has put `pc + 2`. -/
theorem returnUndoesCall : Obligations.ReturnUndoesCall := by
  intro s nnn k hsp hadv heven
  obtain ⟨-, hcall⟩ := callPushesTheNextAddress nnn
  obtain ⟨-, -, -, -, hpush⟩ := hcall s
  refine ⟨_, hpush k hsp hadv heven, ?_, fun u husp hentry => ?_⟩
  · have := nnn.isLt
    exact (BitVec.toNat_ofNat _ _).trans (Nat.mod_eq_of_lt (by omega))
  · refine ⟨_, execRet_of_sp_succ husp, ?_, hsp.symm⟩
    exact hentry.trans (Vector.getElem_set_self _)

/-- Settles O33: the store leaves each register at its address, and the load reads it back from there. -/
theorem loadUndoesStore : Obligations.LoadUndoesStore := by
  intro s u x hadv hfits hadv' hi
  obtain ⟨-, hstore⟩ := storeWritesRegisterBlock x
  obtain ⟨-, -, hstored⟩ := hstore s
  obtain ⟨t, hexec, hblock, -, -⟩ := hstored hfits hadv
  refine ⟨t, hexec, fun hkept => ?_⟩
  have haddr (k : Nat) : u.addr k = s.addr k := by rw [State.addr, hi, State.addr]
  obtain ⟨-, hload⟩ := loadReadsRegisterBlock x
  obtain ⟨-, -, hloaded⟩ := hload u
  obtain ⟨w, hexec', hregs, -, -⟩ := hloaded (haddr x.val ▸ hfits) hadv'
  refine ⟨w, hexec', fun k hk => ?_⟩
  calc w.v[k]
    _ = u.memRead (u.addr k.val) := hregs k hk
    _ = u.memRead (s.addr k.val) := by rw [haddr]
    _ = t.memRead (s.addr k.val) := hkept k hk
    _ = s.v[k] := hblock k hk

/-- Settles O37: both draws flip the pixels that the sprite covers, and what the second one finds set there is what the first
one found unset. -/
theorem secondDrawRestoresTheDisplay : Obligations.SecondDrawRestoresTheDisplay := by
  intro s u x y n _ _ hfits hadv hadv' hi hx hy hbytes
  obtain ⟨-, hdrw⟩ := drwXorsTheSprite x y n
  obtain ⟨-, -, hfirst⟩ := hdrw s
  obtain ⟨-, -, hsecond⟩ := hdrw u
  obtain ⟨t, hexec, hpixels, -⟩ := hfirst hfits hadv
  refine ⟨t, hexec, fun hdisp => ?_⟩
  obtain ⟨w, hexec', hpixels', hcollides, hfree, -⟩ := hsecond (by rw [SpriteFits, hi]; exact hfits) hadv'
  have hcovers := spriteCovers_congr hi hx hy hbytes
  simp only [hdisp, hcovers] at hpixels' hcollides hfree
  have hset {yy xx} (hc : SpriteCovers s x y n yy xx) : pixel t.disp yy xx = true ↔ pixel s.disp yy xx = false := by
    rw [Bool.eq_not.mpr ((hpixels yy xx).mpr hc), Bool.not_eq_true']
  refine ⟨w, hexec', pixel_eq_of_flipped_twice hpixels hpixels', ?_, ?_⟩
  · rintro ⟨yy, xx, hunset, hc⟩
    exact hcollides ⟨yy, xx, (hset hc).mpr hunset, hc⟩
  · exact fun hall => hfree fun yy xx hpix hc => hall yy xx ((hset hc).mp hpix) hc

/-- Settles O44: one more tick subtracts one more from each timer. -/
theorem countdownLaw : Obligations.CountdownLaw := by
  intro n
  induction n with
  | zero =>
    intro s
    simp
  | succ n ih =>
    intro s
    have hdt : (timerTick s).dt.toNat - n = s.dt.toNat - (n + 1) := by
      rw [timerTick_dt_toNat]
      omega
    have hst : (timerTick s).st.toNat - n = s.st.toNat - (n + 1) := by
      rw [timerTick_st_toNat]
      omega
    rw [Function.iterate_succ_apply, ih, hdt, hst]
    rfl

end Sys2Proof.Machine
end

section
/-! PROOFS. The parameters and the world (00_scope.md R7, 45_timer_key_random.md R156). An event adds outputs at the end and
moves the counter of draws up, if it touches the world at all. -/

namespace Sys2Proof.Machine

open Rules

section World

variable {s t : State}

/-- From `s` to `t` no parameter was changed, no output taken back, and the counter of draws has not fallen. -/
def KeepsWorld (s t : State) : Prop :=
  t.cfg = s.cfg ∧ s.env.outputs <+: t.env.outputs ∧ s.env.draws ≤ t.env.draws

theorem keepsWorld_of_eq (hcfg : t.cfg = s.cfg) (henv : t.env = s.env) : KeepsWorld s t := by
  rw [KeepsWorld, hcfg, henv]
  exact ⟨rfl, ⟨[], List.append_nil _⟩, le_rfl⟩

theorem keepsWorld_emit (s : State) (o : Output) : KeepsWorld s (s.emit o) :=
  ⟨rfl, ⟨[o], rfl⟩, le_rfl⟩

theorem State.rndTaken_draws_le (s : State) : s.env.draws ≤ s.rndTaken.env.draws := by
  unfold State.rndTaken
  split
  · exact le_rfl
  · exact Nat.le_succ _

theorem written_keepsWorld (i : Instr) (s : State) : KeepsWorld s (written i s) := by
  obtain ⟨-, -, hcfg⟩ := written_keys_loadable_cfg i s
  by_cases henv : (written i s).env = s.env
  · exact keepsWorld_of_eq hcfg henv
  · obtain ⟨x, nn, rfl⟩ := written_env_of_ne henv
    rw [written_rnd_frame]
    exact ⟨rfl, by rw [s.rndTaken_outputs], s.rndTaken_draws_le⟩

theorem coreStep_keepsWorld (h : coreStep s = .next t) : KeepsWorld s t := by
  cases coreStepTo_of_coreStep h with
  | idle | resolved => exact keepsWorld_of_eq rfl rfl
  | ran t _ hran =>
    cases hran with
    | faulted k op => exact keepsWorld_of_eq rfl rfl
    | completed i p b _ => exact written_keepsWorld i s.closeLoad
    | steppedOver op b _ => exact keepsWorld_emit s _

theorem keySet_keepsWorld {code : Nat} {pressed : Bool} (h : keySet code pressed s = .next t) : KeepsWorld s t := by
  unfold keySet at h
  split at h
  · split at h <;> cases h <;> exact keepsWorld_of_eq rfl rfl
  · cases h

theorem loadEvent_keepsWorld {image : List Byte} (h : loadEvent image s = .next t) : KeepsWorld s t := by
  unfold loadEvent State.reportTruncation at h
  split at h
  · split at h
    · cases h
      exact keepsWorld_emit s _
    · cases h
      exact keepsWorld_of_eq rfl rfl
  · cases h

theorem handle_keepsWorld {e : Event} (h : handle e s = .next t) : KeepsWorld s t := by
  cases e with
  | step => exact coreStep_keepsWorld h
  | timerTick | reset seed =>
    obtain rfl := Host.Outcome.next.inj h
    exact keepsWorld_of_eq rfl rfl
  | keySet code pressed => exact keySet_keepsWorld h
  | load image => exact loadEvent_keepsWorld h

/-! ## The byte of a `CXNN` (R156) -/

theorem execRnd_of_canAdvance (x : Reg) (nn : Byte) (h : s.CanAdvance) :
    exec (.rnd x nn) s = .next { s with
      v := s.v.set x (s.rndByte &&& nn)
      pc := s.pc + 2
      dispChanged := false
      env := s.rndTaken.env } := by
  calc exec (.rnd x nn) s
    _ = .next { written (.rnd x nn) s with pc := s.pc + 2, dispChanged := false } :=
      advance_ok_sameDisplay _ s _ h s.rndTaken_disp
    _ = _ := by rw [written_rnd_frame]

theorem State.rnd_of_input {b : Byte} {rest : List Byte} (h : s.env.rndIn = b :: rest) :
    s.rndByte = b ∧ s.rndTaken.env = { s.env with rndIn := rest } := by
  rw [State.rndByte, State.rndTaken, h]
  exact ⟨rfl, rfl⟩

theorem State.rnd_of_noInput (h : s.env.rndIn = []) :
    s.rndByte = Config.rndByte s.env.draws ∧ s.rndTaken.env = { s.env with draws := s.env.draws + 1 } := by
  rw [State.rndByte, State.rndTaken, h]
  exact ⟨rfl, rfl⟩

end World

/-! ## The obligations -/

/-- Settles O42: `CXNN` only advances, and whether the world has fixed the next byte decides which byte and which world it
leaves. -/
theorem rndIsADrawUnderTheMask : Obligations.RndIsADrawUnderTheMask := by
  intro x nn
  have hword : encode (.rnd x nn) = wordXNN 0xC x nn.toNat := fmtRegImm_eq_wordXNN 0xC x nn
  rw [← hword]
  refine ⟨encodes_of_encode_eq rfl, fun s => ⟨advance_atEnd _ s _, fun hadv b rest hin => ?_, fun hadv hin => ?_⟩⟩
  · obtain ⟨hbyte, hworld⟩ := State.rnd_of_input hin
    rw [execRnd_of_canAdvance x nn hadv, hbyte, hworld]
  · obtain ⟨-, hworld⟩ := State.rnd_of_noInput hin
    exact ⟨s.rndByte, by rw [execRnd_of_canAdvance x nn hadv, hworld]⟩

/-- Settles O54: every event keeps the parameters and only adds to the world, and a draw that no input has fixed moves the
counter on. -/
theorem parametersAndWorldAreKept : Obligations.ParametersAndWorldAreKept := by
  constructor
  · intro s t hstep
    obtain ⟨e, es, heq⟩ := step_eq_handle s
    exact handle_keepsWorld (s := s.setSchedule es) (heq.symm.trans hstep)
  · intro x nn s hadv hin
    obtain ⟨hbyte, hworld⟩ := State.rnd_of_noInput hin
    refine ⟨_, execRnd_of_canAdvance x nn hadv, ?_, ?_⟩
    · rw [← hbyte]
      exact Vector.getElem_set_self _
    · rw [hworld]

end Sys2Proof.Machine
end

section
/-! PROOFS. The canonical form of memory (20_memory.md R50; the model's form). A list in that form holds exactly the cells
that its reads show to differ from the reset contents, and its order is fixed. -/

namespace Sys2Proof.Machine

/-- Where addresses rise, no cell is hidden behind an earlier one of its address. -/
theorem Memory.lookup_of_mem {m : Memory} (hrising : m.Pairwise fun c d => c.1 < d.1) {a : Nat} {b : Byte}
    (h : (a, b) ∈ m) : Memory.lookup m a = some b := by
  induction m with
  | nil => cases h
  | cons c rest ih =>
    obtain ⟨hfirst, hrest⟩ := List.pairwise_cons.mp hrising
    rcases List.mem_cons.mp h with rfl | h
    · simp [Memory.lookup]
    · have hne : c.1 ≠ a := (hfirst _ h).ne
      simp [Memory.lookup, hne, ih hrest h]

theorem Memory.mem_of_lookup {m : Memory} {a : Nat} {b : Byte} (h : Memory.lookup m a = some b) : (a, b) ∈ m := by
  induction m with
  | nil => cases h
  | cons c rest ih =>
    unfold Memory.lookup at h
    split at h
    next hc =>
      obtain rfl := Option.some.inj h
      exact hc ▸ List.mem_cons_self
    · exact List.mem_cons_of_mem _ (ih h)

/-- The cells of a memory in canonical form are the bytes that read other than unlisted. -/
theorem Memory.mem_iff_read {font : Font} {m : Memory} (h : Memory.wf font m = true) (a : Nat) (b : Byte) :
    (a, b) ∈ m ↔ Memory.read font m a = b ∧ b ≠ Memory.unlisted font a := by
  obtain ⟨hrising, hcells⟩ := (Memory.wf_iff font m).mp h
  constructor
  · intro hmem
    rw [Memory.read, Memory.lookup_of_mem hrising hmem]
    exact ⟨rfl, (hcells _ hmem).2⟩
  · rintro ⟨hread, hne⟩
    unfold Memory.read at hread
    cases hl : Memory.lookup m a with
    | none => exact absurd (by rw [← hread, hl, Option.getD_none]) hne
    | some c =>
      rw [hl, Option.getD_some] at hread
      exact Memory.mem_of_lookup (hread ▸ hl)

/-- Two lists of rising addresses with the same cells are the same list. -/
theorem Memory.eq_of_mem_iff {m m' : Memory} (hrising : m.Pairwise fun c d => c.1 < d.1)
    (hrising' : m'.Pairwise fun c d => c.1 < d.1) (h : ∀ c, c ∈ m ↔ c ∈ m') : m = m' := by
  have hirrefl : Std.Irrefl fun c d : Host.Cell => c.1 < d.1 := ⟨fun c => lt_irrefl c.1⟩
  have hantisymm : Std.Antisymm fun c d : Host.Cell => c.1 < d.1 := ⟨fun _ _ hlt hgt => absurd hlt hgt.asymm⟩
  exact hrising.eq_of_mem_iff hrising' h

/-! ## The obligation -/

/-- Settles O34: the reads determine the cells, and the rising addresses their order. -/
theorem canonicalMemoryIsDeterminedByReads : Obligations.CanonicalMemoryIsDeterminedByReads := by
  intro font m m' h h' hreads
  refine Memory.eq_of_mem_iff ((Memory.wf_iff font m).mp h).1 ((Memory.wf_iff font m').mp h').1 fun ⟨a, b⟩ => ?_
  rw [Memory.mem_iff_read h, Memory.mem_iff_read h', hreads]

end Sys2Proof.Machine
end

section
/-! PROOFS. Reset and load, continued (70_reset_and_hazards.md R190 to R196). What a `Load` reads back as, on top of the
memory that `Reset` leaves; and which events keep the record of whether a `Load` is legal. -/

namespace Sys2Proof.Machine

section ResetAndLoad

variable {s : State}

/-! ## What a `Load` copies (R193) -/

/-- The memory after the copy of `image`, the only write of a `Load` beside the report and the record of R194. -/
def State.loaded (s : State) (image : List Byte) : State :=
  s.memWriteList 0x200 (image.take s.cfg.loadMax.val)

theorem loadEvent_of_loadable (image : List Byte) (h : s.loadable = true) :
    loadEvent image s = .next ((s.loaded image).reportTruncation image).closeLoad :=
  if_pos h

theorem State.reportTruncation_of_truncated {image : List Byte} (h : s.cfg.loadMax.val < image.length) :
    s.reportTruncation image = s.emit (.loadTruncated image.length) :=
  if_pos h

theorem State.reportTruncation_of_fits {image : List Byte} (h : image.length ≤ s.cfg.loadMax.val) :
    s.reportTruncation image = s :=
  if_neg (Nat.not_lt.mpr h)

theorem State.reportTruncation_memRead (s : State) (image : List Byte) (a : Nat) :
    (s.reportTruncation image).memRead a = s.memRead a := by
  unfold State.reportTruncation
  split
  · rfl
  · rfl

theorem State.loaded_memRead_inside (s : State) {image : List Byte} {k : Nat} (h : k < image.length)
    (hmax : k < s.cfg.loadMax.val) : (s.loaded image).memRead (0x200 + k) = image[k] := by
  have hk : k < (image.take s.cfg.loadMax.val).length := by
    rw [List.length_take]
    omega
  exact (s.memRead_memWriteList_inside 0x200 _ k hk).trans List.getElem_take

theorem State.loaded_memRead_outside (s : State) (image : List Byte) {a : Nat}
    (h : a < 0x200 ∨ 0x200 + min image.length s.cfg.loadMax.val ≤ a) : (s.loaded image).memRead a = s.memRead a := by
  refine s.memRead_memWriteList_outside 0x200 _ a ?_
  rw [List.length_take, Nat.min_comm]
  exact h

/-! ## Which events keep the record of R194 -/

theorem keySet_loadable {code : Nat} {pressed : Bool} {t : State} (h : keySet code pressed s = .next t) :
    t.loadable = s.loadable := by
  unfold keySet at h
  split at h
  · split at h <;> cases h <;> rfl
  · cases h

theorem loadEvent_loadable {image : List Byte} {t : State} (h : loadEvent image s = .next t) : t.loadable = false := by
  unfold loadEvent at h
  split at h
  · obtain rfl := Host.Outcome.next.inj h
    rfl
  · cases h

end ResetAndLoad

/-! ## The obligations -/

/-- Settles O55: every field is the one that `Reset` writes, and memory lists nothing. -/
theorem resetWritesEveryRegister : Obligations.ResetWritesEveryRegister := by
  intro seed s
  obtain ⟨t, ht, hfont, hzeros⟩ := resetInstallsTheFont seed s
  obtain rfl := Host.Outcome.next.inj ht
  refine ⟨resetEvent s, rfl, fun r => ?_, rfl, rfl, fun k => ?_, rfl, rfl, rfl, fun c => ?_, pixel_blankDisplay, rfl, rfl,
    rfl, rfl, fun k => ?_, hzeros, rfl, rfl, rfl, rfl⟩
  · exact Vector.getElem_replicate _
  · exact Vector.getElem_replicate _
  · exact Vector.getElem_replicate _
  · rw [← hfont k, Nat.zero_add]

/-- Settles O57: the copy is a block write of what `LOAD_MAX` leaves of the image, and the report touches the outputs only. -/
theorem loadCopiesTheImage : Obligations.LoadCopiesTheImage := by
  intro image s hload
  have hread (a : Nat) : ((s.loaded image).reportTruncation image).closeLoad.memRead a = (s.loaded image).memRead a :=
    State.reportTruncation_memRead _ image a
  refine ⟨_, loadEvent_of_loadable image hload, fun k h hmax => ?_, fun a ha => ?_, fun htrunc => ?_, fun hfits => ?_⟩
  · rw [hread, s.loaded_memRead_inside h hmax]
  · rw [hread, s.loaded_memRead_outside image ha]
  · rw [State.reportTruncation_of_truncated (s := s.loaded image) htrunc]
    rfl
  · rw [State.reportTruncation_of_fits (s := s.loaded image) hfits]
    rfl

/-- Settles O58: `Reset` sets the record, `Step` and `Load` clear it, and the other events write something else; after
`Reset` the word at `0x200` is two unlisted bytes above the font. -/
theorem loadOnlyDirectlyAfterReset : Obligations.LoadOnlyDirectlyAfterReset := by
  intro s
  refine ⟨fun seed t hreset => ?_, fun t => coreStep_loadable, fun image t => loadEvent_loadable, fun t htick => ?_,
    fun code pressed t => keySet_loadable, fun image => loadEvent_of_not_loadable image⟩
  · obtain rfl := Host.Outcome.next.inj hreset
    refine ⟨rfl, ?_, rfl⟩
    have hzero (a : Nat) (ha : 80 ≤ a) : (resetEvent s).memRead a = 0 :=
      (resetEvent_memRead s a).trans (Memory.unlisted_aboveFont s.cfg.font ha)
    have hbyte0 : (resetEvent s).memRead (resetEvent s).pc.toNat = 0 := hzero 0x200 (by omega)
    have hbyte1 : (resetEvent s).memRead ((resetEvent s).pc.toNat + 1) = 0 := hzero 0x201 (by omega)
    rw [State.memReadWord, hbyte0, hbyte1]
    rfl
  · obtain rfl := Host.Outcome.next.inj htick
    rfl

/-- Settles O59: the registers are those of `Reset`, and memory is that of `Reset` outside the copied image. -/
theorem launchState : Obligations.LaunchState := by
  intro seed image s hfits
  obtain ⟨t, hreset, hv, hi, hpc, -, hsp, hdt, hst, hkeys, hpixels, hmode, hlatch, hfault, -, hfont, hzeros, -, hload,
    hcfg, -⟩ := resetWritesEveryRegister seed s
  obtain ⟨u, hloaded, hinside, houtside, -, hframe⟩ := loadCopiesTheImage image t hload
  rw [hcfg] at hinside houtside hframe
  rw [Nat.min_eq_left hfits] at houtside
  have hu := hframe hfits
  refine ⟨t, u, hreset, hloaded, (congrArg State.pc hu).trans hpc, fun r => (congrArg (·.v[r]) hu).trans (hv r),
    (congrArg State.i hu).trans hi, (congrArg State.sp hu).trans hsp, (congrArg State.dt hu).trans hdt,
    (congrArg State.st hu).trans hst, fun c => (congrArg (·.keys[c]) hu).trans (hkeys c),
    fun y x => (congrArg (pixel ·.disp y x) hu).trans (hpixels y x), (congrArg State.mode hu).trans hmode,
    (congrArg State.fault hu).trans hfault, (congrArg State.keyLatch hu).trans hlatch, fun k => ?_, fun a hge hlt => ?_,
    fun k hk => hinside k hk (by omega), fun a hge hle => ?_⟩
  · rw [houtside k.val (.inl (by omega)), hfont k]
  · rw [houtside a (.inl hlt), hzeros a hge (by omega)]
  · rw [houtside a (.inr hge), hzeros a (by omega) hle]

end Sys2Proof.Machine
end
